-- ==== Sys2Proof/Word.lean ====
section
/-! DEFINITION. The two word types of the block: a byte and a 16-bit word (10_state.md R13, 00_scope.md R11). -/

namespace Sys2Proof

/-- A byte of the stream, of the payload buffer, of `SRC`, `DST` and `CNT` (R13). -/
abbrev Byte := BitVec 8

/-- The 16-bit registers `LEN`, `MSGID`, `ACC`, `RXCK` (R13). -/
abbrev Word16 := BitVec 16

end Sys2Proof
end

