-- ==== Sys2Proof/Config.lean ====
section
/-! DEFINITION. What an instance of the block fixes at build time (R5, R6, R25), and the free values
that stand for what the spec leaves unspecified (R29, R41, R77; U2, U3, U4 of 93_implementation_defined.md). -/

namespace Sys2Proof

/-- The build-time parameters the source names but gives no value for (R6, U1, D1): any two bytes, equal or not (D25). -/
structure Config where
  marker0 : Byte
  marker1 : Byte
  deriving DecidableEq, Repr

/-- The reference instantiation of R6: the spec's own choice, for its test vectors only. Log entry 1. -/
def Config.reference : Config := { marker0 := 0xAA, marker1 := 0x55 }

/-- `MAX_PAYLOAD`, the largest payload byte count and the number of cells of `PAY` (R5, R33). -/
def maxPayload : Nat := 128

/-! The free values of RESET (R29, R77): argument n is the number of the draw (the State field `draws`),
so that every RESET of a run finds values of its own. They have no body: nothing can be proved of their value. Log entry 2. -/

/-- `LEN` after the n-th RESET. -/
opaque Config.freeLen : Nat → Word16
/-- `MSGID` after the n-th RESET. -/
opaque Config.freeMsgid : Nat → Word16
/-- `SRC` after the n-th RESET. -/
opaque Config.freeSrc : Nat → Byte
/-- `DST` after the n-th RESET. -/
opaque Config.freeDst : Nat → Byte
/-- `CNT` after the n-th RESET. -/
opaque Config.freeCnt : Nat → Byte
/-- `ACC` after the n-th RESET. -/
opaque Config.freeAcc : Nat → Word16
/-- `RXCK` after the n-th RESET. -/
opaque Config.freeRxck : Nat → Word16
/-- `PAY[i]` after the n-th RESET. -/
opaque Config.freePay : Nat → Nat → Byte

/-- What the consumer's read port answers at index `index` where R41 and U4 give no value. `s` is the whole state of the machine, so
that nothing ties two reads of different states together; a read repeated in one state answers the same (R40). Log entry 6. -/
opaque Config.freeRead {σ : Type} (s : σ) (index : Nat) : Byte

end Sys2Proof
end

