-- ==== Sys2Proof/Machine/Operands.lean ====
section
/-! DEFINITION. The operand forms: zero-extension of the input byte, the two halves of a 16-bit register and
their little-endian assembly (R11, R36, R52, R53, R55), and the sum of the two markers (R7). -/

namespace Sys2Proof.Machine

/-- `zext_16(b)`: extends the byte to 16 bits with zeros (R11). -/
def zext16 (b : Byte) : Word16 := BitVec.setWidth 16 b

/-- `w[7:0]` (R11). -/
def lowByte (w : Word16) : Byte := BitVec.extractLsb' 0 8 w

/-- `w[15:8]` (R11). -/
def highByte (w : Word16) : Byte := BitVec.extractLsb' 8 8 w

/-- `{hi, lo}`: concatenation with `hi` in the high bits (R11, R36). -/
def joinBytes (hi lo : Byte) : Word16 := hi ++ lo

/-- The register `w` after `w[7:0] <- b`: the other half keeps its value (R83). -/
def withLowByte (w : Word16) (b : Byte) : Word16 := joinBytes (highByte w) b

/-- The register `w` after `w[15:8] <- b`: the other half keeps its value (R84). -/
def withHighByte (w : Word16) (b : Byte) : Word16 := joinBytes b (lowByte w)

/-- `CK_SEED = (zext_16(MARKER0) + zext_16(MARKER1)) mod 2^16` (R7, R67; conflict C1). -/
def ckSeed (cfg : Config) : Word16 := zext16 cfg.marker0 + zext16 cfg.marker1

/-- `CNT + 1` on 8 bits, zero-extended to 16 for its comparison with `LEN` (R71 item i). -/
def cntSucc (cnt : Byte) : Word16 := zext16 (cnt + 1)

end Sys2Proof.Machine
end

