-- ==== Sys2Proof/Syntax.lean ====
section
/-! DEFINITION. The block's syntax: the eleven values of `ST` (R14) and its 19 operations (30_encoding.md R62,
41_parser.md R77 to R95), one constructor per row of spec/opcode_table.json. -/

namespace Sys2Proof

/-- The sequencing state `ST`: exactly one of eleven values (R14). There are no codes 11 to 15 here (R63, D7). -/
inductive ParserState where
  | seeking
  | matchedFirstMarker
  | readingLength0
  | readingLength1
  | readingMessageId0
  | readingMessageId1
  | readingSource
  | readingDestination
  | readingPayload
  | readingChecksum0
  | readingChecksum1
  deriving DecidableEq, Repr

/-- The 19 operations. `b` is the input byte the operation consumes; RESET and IDLE have no operand (R77, R78). -/
inductive Instr where
  /-- RESET (R77) -/
  | reset
  /-- IDLE (R78) -/
  | idle
  /-- SEEK.MISS (R79) -/
  | seekMiss (b : Byte)
  /-- SEEK.HIT (R80) -/
  | seekHit (b : Byte)
  /-- SYNC.HIT (R81) -/
  | syncHit (b : Byte)
  /-- SYNC.MISS (R82) -/
  | syncMiss (b : Byte)
  /-- LEN.LO (R83) -/
  | lenLo (b : Byte)
  /-- LEN.HI (R84) -/
  | lenHi (b : Byte)
  /-- ID.LO (R85) -/
  | idLo (b : Byte)
  /-- ID.HI (R86) -/
  | idHi (b : Byte)
  /-- SRC (R87) -/
  | src (b : Byte)
  /-- DST.DROP (R88) -/
  | dstDrop (b : Byte)
  /-- DST.ZERO (R89) -/
  | dstZero (b : Byte)
  /-- DST.PAY (R90) -/
  | dstPay (b : Byte)
  /-- PAY.MORE (R91) -/
  | payMore (b : Byte)
  /-- PAY.LAST (R92) -/
  | payLast (b : Byte)
  /-- CK.LO (R93) -/
  | ckLo (b : Byte)
  /-- CK.OK (R94) -/
  | ckOk (b : Byte)
  /-- CK.BAD (R95) -/
  | ckBad (b : Byte)
  deriving DecidableEq, Repr

end Sys2Proof
end

