-- ==== Sys2Proof/WellFormed.lean ====
section
/-! DEFINITION. Which operation terms an instance of the block has: the two marker conditions of R62, which bear on
the operand byte and the configuration alone; and the registers the other conditions of R62 read. -/

namespace Sys2Proof

/-- What selects among the rows of R62 that share a pattern: the configuration and four registers (R61, R76). -/
structure SelRegs where
  cfg  : Config
  len  : Word16
  cnt  : Byte
  acc  : Word16
  rxck : Word16
  deriving DecidableEq, Repr

/-- The marker conditions of R62 (R79 to R82); every other operation takes any byte. -/
def wellFormed (cfg : Config) : Instr → Bool
  | .seekMiss b => b != cfg.marker0
  | .seekHit b  => b == cfg.marker0
  | .syncHit b  => b == cfg.marker1
  | .syncMiss b => b != cfg.marker1
  | .reset | .idle => true
  | .lenLo _ | .lenHi _ | .idLo _ | .idHi _ | .src _ => true
  | .dstDrop _ | .dstZero _ | .dstPay _ => true
  | .payMore _ | .payLast _ => true
  | .ckLo _ | .ckOk _ | .ckBad _ => true

end Sys2Proof
end

