-- ==== Sys2Proof/Decode.lean ====
section
/-! DEFINITION. The operation-select key (30_encoding.md R61), the decoder from a key and the selecting registers to an
operation (R62), and the encoder from an operation to its key. -/

namespace Sys2Proof

open Sys2Proof.Machine (joinBytes lowByte cntSucc)

/-- The 14-bit key of R61: bit 13 `rst`, bit 12 `in_valid`, bits 11:8 the `ST` code, bits 7:0 the input byte. -/
abbrev Key := BitVec 14

def Key.rst (k : Key) : Bool := k.getLsbD 13
def Key.inValid (k : Key) : Bool := k.getLsbD 12
def Key.stCode (k : Key) : BitVec 4 := BitVec.extractLsb' 8 4 k
def Key.data (k : Key) : Byte := BitVec.extractLsb' 0 8 k

/-- The key made of its four fields (R61). -/
def mkKey (rst inValid : Bool) (code : BitVec 4) (b : Byte) : Key :=
  ((BitVec.ofBool rst ++ BitVec.ofBool inValid) ++ code) ++ b

/-- The 4-bit code of a value of `ST` (R14). -/
def ParserState.code : ParserState → BitVec 4
  | .seeking            => 0
  | .matchedFirstMarker => 1
  | .readingLength0     => 2
  | .readingLength1     => 3
  | .readingMessageId0  => 4
  | .readingMessageId1  => 5
  | .readingSource      => 6
  | .readingDestination => 7
  | .readingPayload     => 8
  | .readingChecksum0   => 9
  | .readingChecksum1   => 10

/-- The value of `ST` with a given code; codes 11 to 15 have none (R14, R63). -/
def ParserState.ofCode (c : BitVec 4) : Option ParserState :=
  if c = 0 then some .seeking
  else if c = 1 then some .matchedFirstMarker
  else if c = 2 then some .readingLength0
  else if c = 3 then some .readingLength1
  else if c = 4 then some .readingMessageId0
  else if c = 5 then some .readingMessageId1
  else if c = 6 then some .readingSource
  else if c = 7 then some .readingDestination
  else if c = 8 then some .readingPayload
  else if c = 9 then some .readingChecksum0
  else if c = 10 then some .readingChecksum1
  else none

/-- Why a key selects no operation. -/
inductive DecodeError where
  /-- `ST` codes 11 to 15 select no operation (R63, U7). -/
  | unusedStCode (code : BitVec 4)
  /-- In `ReadingPayload` neither `CNT + 1 < LEN` nor `CNT + 1 == LEN` holds: outside the invariants of R28 (R92, R96). -/
  | noPayloadRow (cnt : Byte) (len : Word16)
  deriving DecidableEq, Repr

/-- The operation of a step on the byte `b` in the state `st`: the rows of R62 with `r v = 0 1`, each with its condition. -/
def selectByte (r : SelRegs) (st : ParserState) (b : Byte) : Except DecodeError Instr :=
  match st with
  | .seeking            => if b = r.cfg.marker0 then .ok (.seekHit b) else .ok (.seekMiss b)
  | .matchedFirstMarker => if b = r.cfg.marker1 then .ok (.syncHit b) else .ok (.syncMiss b)
  | .readingLength0     => .ok (.lenLo b)
  | .readingLength1     => .ok (.lenHi b)
  | .readingMessageId0  => .ok (.idLo b)
  | .readingMessageId1  => .ok (.idHi b)
  | .readingSource      => .ok (.src b)
  | .readingDestination =>
    if maxPayload < r.len.toNat then .ok (.dstDrop b)
    else if r.len = 0 then .ok (.dstZero b)
    else .ok (.dstPay b)
  | .readingPayload     =>
    if cntSucc r.cnt < r.len then .ok (.payMore b)
    else if cntSucc r.cnt = r.len then .ok (.payLast b)
    else .error (.noPayloadRow r.cnt r.len)
  | .readingChecksum0   => .ok (.ckLo b)
  | .readingChecksum1   =>
    if joinBytes b (lowByte r.rxck) = r.acc then .ok (.ckOk b) else .ok (.ckBad b)

/-- The decoder: `rst` first, then `in_valid`, then the `ST` code and the byte (R61, R62). Total on every key. -/
def decode (r : SelRegs) (k : Key) : Except DecodeError Instr :=
  if k.rst then .ok .reset
  else if k.inValid then
    match ParserState.ofCode k.stCode with
    | some st => selectByte r st k.data
    | none    => .error (.unusedStCode k.stCode)
  else .ok .idle

/-- The value of `ST` an operation's pattern names; RESET and IDLE name none (R62). -/
def Instr.fromState : Instr → Option ParserState
  | .reset | .idle => none
  | .seekMiss _ | .seekHit _ => some .seeking
  | .syncHit _ | .syncMiss _ => some .matchedFirstMarker
  | .lenLo _ => some .readingLength0
  | .lenHi _ => some .readingLength1
  | .idLo _  => some .readingMessageId0
  | .idHi _  => some .readingMessageId1
  | .src _   => some .readingSource
  | .dstDrop _ | .dstZero _ | .dstPay _ => some .readingDestination
  | .payMore _ | .payLast _ => some .readingPayload
  | .ckLo _  => some .readingChecksum0
  | .ckOk _ | .ckBad _ => some .readingChecksum1

/-- The input byte an operation consumes; RESET and IDLE consume none (R77, R78). -/
def Instr.byte : Instr → Option Byte
  | .reset | .idle => none
  | .seekMiss b | .seekHit b | .syncHit b | .syncMiss b => some b
  | .lenLo b | .lenHi b | .idLo b | .idHi b | .src b => some b
  | .dstDrop b | .dstZero b | .dstPay b | .payMore b | .payLast b => some b
  | .ckLo b | .ckOk b | .ckBad b => some b

/-- The mask of an operation's row of spec/opcode_table.json: the key bits its pattern fixes. -/
def Instr.keyMask : Instr → Key
  | .reset => 0x2000
  | .idle  => 0x3000
  | .seekMiss _ | .seekHit _ | .syncHit _ | .syncMiss _ => 0x3F00
  | .lenLo _ | .lenHi _ | .idLo _ | .idHi _ | .src _ => 0x3F00
  | .dstDrop _ | .dstZero _ | .dstPay _ | .payMore _ | .payLast _ => 0x3F00
  | .ckLo _ | .ckOk _ | .ckBad _ => 0x3F00

/-- The match of an operation's row of spec/opcode_table.json: the values of those bits. -/
def Instr.keyMatch : Instr → Key
  | .reset => 0x2000
  | .idle  => 0x0000
  | .seekMiss _ | .seekHit _ => 0x1000
  | .syncHit _ | .syncMiss _ => 0x1100
  | .lenLo _ => 0x1200
  | .lenHi _ => 0x1300
  | .idLo _  => 0x1400
  | .idHi _  => 0x1500
  | .src _   => 0x1600
  | .dstDrop _ | .dstZero _ | .dstPay _ => 0x1700
  | .payMore _ | .payLast _ => 0x1800
  | .ckLo _  => 0x1900
  | .ckOk _ | .ckBad _ => 0x1A00

/-- The condition column of R62, the marker conditions of `wellFormed` among them. -/
def selected (r : SelRegs) (i : Instr) : Bool :=
  wellFormed r.cfg i &&
  match i with
  | .dstDrop _ => decide (maxPayload < r.len.toNat)
  | .dstZero _ => r.len == 0
  | .dstPay _  => decide (1 ≤ r.len.toNat) && decide (r.len.toNat ≤ maxPayload)
  | .payMore _ => decide (cntSucc r.cnt < r.len)
  | .payLast _ => cntSucc r.cnt == r.len
  | .ckOk b    => joinBytes b (lowByte r.rxck) == r.acc
  | .ckBad b   => joinBytes b (lowByte r.rxck) != r.acc
  | .reset | .idle => true
  | .seekMiss _ | .seekHit _ | .syncHit _ | .syncMiss _ => true
  | .lenLo _ | .lenHi _ | .idLo _ | .idHi _ | .src _ | .ckLo _ => true

/-- The key of an operation: its pattern of R62 with the byte in bits 7:0; the bits the pattern leaves open are zero. -/
def encode : Instr → Key
  | .reset      => mkKey true false 0 0
  | .idle       => mkKey false false 0 0
  | .seekMiss b => mkKey false true 0 b
  | .seekHit b  => mkKey false true 0 b
  | .syncHit b  => mkKey false true 1 b
  | .syncMiss b => mkKey false true 1 b
  | .lenLo b    => mkKey false true 2 b
  | .lenHi b    => mkKey false true 3 b
  | .idLo b     => mkKey false true 4 b
  | .idHi b     => mkKey false true 5 b
  | .src b      => mkKey false true 6 b
  | .dstDrop b  => mkKey false true 7 b
  | .dstZero b  => mkKey false true 7 b
  | .dstPay b   => mkKey false true 7 b
  | .payMore b  => mkKey false true 8 b
  | .payLast b  => mkKey false true 8 b
  | .ckLo b     => mkKey false true 9 b
  | .ckOk b     => mkKey false true 10 b
  | .ckBad b    => mkKey false true 10 b

/-- The selecting registers under which a bare word of the opcode table is read. A word has no bits for the condition
column of R62, so one context is fixed: the reference markers, `LEN = 2`, `CNT = 0`, `ACC = RXCK = 0`. Log entry 8. -/
def SelRegs.table : SelRegs := { cfg := Config.reference, len := 2, cnt := 0, acc := 0, rxck := 0 }

/-- The key in the low `nbits` bits of `w`; the bits above are zero, and a key has 14 bits (R61). -/
def keyOfWord (nbits w : Nat) : Option Key :=
  if w % 2 ^ nbits < 2 ^ 14 then some (BitVec.ofNat 14 (w % 2 ^ nbits)) else none

/-- The operation the decoder reads from a word of the opcode table, in the context `SelRegs.table`. -/
def decodeTableWord (nbits w : Nat) : Option Instr :=
  match keyOfWord nbits w with
  | none   => none
  | some k =>
    match decode SelRegs.table k with
    | .ok i    => some i
    | .error _ => none

end Sys2Proof
end

