-- ==== Sys2Proof/Machine/State.lean ====
section
/-! DEFINITION. The machine's state as plain data (10_state.md R13), the event a step returns (R23), the input pins
still to come (R34, R143), the reasons a step can stop, and the state after reset (R29). -/

namespace Sys2Proof.Machine

/-- The payload buffer `PAY` as a list of (index, byte) cells: indices strictly rising, all below 128, and no cell
equal to what an unlisted index reads as (`Memory.wf`; R33). -/
abbrev Memory := List Host.Cell

/-- A completed frame as the event carries it (R12, R23). -/
structure Frame where
  length      : Word16
  messageId   : Word16
  source      : Byte
  destination : Byte
  payload     : List Byte
  checksum    : Word16
  deriving DecidableEq, Repr

/-- The event of a step (R23). `Malformed` carries the declared source only; its error code is the constant 3 (R115). -/
inductive Event where
  | none
  | frameOk (f : Frame)
  | malformed (src : Byte)
  deriving DecidableEq, Repr

/-- The three input wires in one cycle (R143): `rst`, `in_valid`, `in_data`. -/
structure Pins where
  rst     : Bool
  inValid : Bool
  inData  : Byte
  deriving DecidableEq, Repr

/-- The whole state. The nine fields `st` to `pay` are the tuple of R13; the other five are the model's own:
`cfg` the instance's constants (R25, R27), `event` the output of the latest step (R23; at the port level the registered
pulse of R144), `readable` how much of `PAY` is the payload of a delivered frame (R41), `input` what the environment offers in the cycles to come (R27, R34), `draws` the count of
RESETs whose free values have been drawn. -/
structure State where
  /-- `MARKER0`, `MARKER1` (R6): written by no operation (R25). -/
  cfg   : Config
  /-- `ST` (R14). -/
  st    : ParserState
  /-- `LEN` (R16). -/
  len   : Word16
  /-- `MSGID` (R17). -/
  msgid : Word16
  /-- `SRC` (R18). -/
  src   : Byte
  /-- `DST` (R18). -/
  dst   : Byte
  /-- `CNT` (R19). -/
  cnt   : Byte
  /-- `ACC` (R22). -/
  acc   : Word16
  /-- `RXCK` (R20). -/
  rxck  : Word16
  /-- `PAY[0..127]` (R33). -/
  pay   : Memory
  /-- The event of the latest step (R23, R144). -/
  event : Event
  /-- The cells `PAY[0..readable-1]` are the payload of the latest event's frame: its length after `FrameOk`, and 0 before the
  first frame, after `Malformed` and after a silent drop (R41, U4). No operation reads it; the read port does. -/
  readable : Nat
  /-- The pins of the cycles to come, the next one first (R34, R143). -/
  input : List Pins
  /-- How many times RESET has drawn its free values. -/
  draws : Nat
  deriving DecidableEq, Repr

/-- Why the machine stops with a fault. -/
inductive Fault where
  /-- Raised by the two accesses to `PAY` (PAY.MORE and PAY.LAST writing, CK.OK reading) when the index is not in 0..127:
  the cell does not exist (R33, R43). Safe: no state that satisfies the invariants of R28 reaches it. -/
  | payIndexOutOfRange (index : Nat)
  deriving DecidableEq, Repr

/-- Why the machine gives no meaning to what it is asked to run. -/
inductive Refusal where
  /-- Raised by `exec` for an operation whose meaning is not written yet; none is left. Safe. -/
  | notModelled (mnemonic : String)
  /-- Raised by `step` when the key and the registers select no operation (R62, R63, R92). Safe: no state that
  satisfies the invariants of R28 reaches it. -/
  | noOperation (e : DecodeError)
  deriving DecidableEq, Repr

/-- The state after RESET of an instance with the markers `cfg` (R29): `ST = Seeking`, no event, no byte offered yet.
The spec leaves `LEN` .. `RXCK` and `PAY` unspecified; zero is the model's choice, and no statement rests on it. Log entry 3. -/
def State.resetWith (cfg : Config) : State where
  cfg   := cfg
  st    := .seeking
  len   := 0
  msgid := 0
  src   := 0
  dst   := 0
  cnt   := 0
  acc   := 0
  rxck  := 0
  pay   := []
  event := .none
  readable := 0
  input := []
  draws := 0

/-- The machine right after reset, in the reference instantiation of R6. Log entries 1 and 3. -/
def State.reset : State := State.resetWith Config.reference

end Sys2Proof.Machine
end

