-- ==== Sys2Proof/Machine/Ops.lean ====
section
/-! DEFINITION. The named operations over the payload buffer and the registers, on which every meaning is built:
`PAY[i]` and `PAY[i] <- v` (R11, R35), `ST <- S`, `emit`, the register writes, the accumulator's three micro-operations
(R67 to R69), and taking an abnormal condition (R121). -/

namespace Sys2Proof.Machine

/-! ### The payload buffer as cells -/

/-- What an unlisted index of `PAY` reads as. The spec gives no value (R29, R41): zero is the model's choice. Log entry 4. -/
def Memory.unlisted : Byte := 0

/-- `PAY[i]`: one byte at index `i` (R11, R39). -/
def Memory.read : Memory → Nat → Byte
  | [], _ => Memory.unlisted
  | (k, v) :: m, a => if k = a then v else Memory.read m a

/-- `PAY[i] <- v` (R11): puts the cell in its place, or takes it out when `v` is what an unlisted index reads as. -/
def Memory.write : Memory → Nat → Byte → Memory
  | [], a, v => if v = Memory.unlisted then [] else [(a, v)]
  | (k, w) :: m, a, v =>
    if a < k then (if v = Memory.unlisted then (k, w) :: m else (a, v) :: (k, w) :: m)
    else if a = k then (if v = Memory.unlisted then m else (a, v) :: m)
    else (k, w) :: Memory.write m a v

/-- The cells are listed from index `lo` on in strictly rising order, below 128, none equal to the unlisted value. -/
def Memory.wfFrom : Nat → Memory → Bool
  | _, [] => true
  | lo, (k, v) :: m => decide (lo ≤ k) && decide (k < maxPayload) && (v != Memory.unlisted) && Memory.wfFrom (k + 1) m

/-- The canonical form: equal buffers are equal lists (R33). -/
def Memory.wf (m : Memory) : Bool := Memory.wfFrom 0 m

/-- The buffer whose cell `i` holds `f i`, for every index 0..127. -/
def Memory.ofFn (f : Nat → Byte) : Memory :=
  (List.range maxPayload).filterMap fun i => if f i = Memory.unlisted then none else some (i, f i)

/-- `[PAY[0], ..., PAY[n-1]]`. -/
def Memory.readList (m : Memory) (n : Nat) : List Byte := (List.range n).map m.read

/-! ### Register writes -/

/-- `ST <- t` (R11, R15). -/
def State.goto (t : ParserState) (s : State) : State := { s with st := t }
/-- `emit e` (R11, R23): the event of the step. -/
def State.emit (e : Event) (s : State) : State := { s with event := e }
def State.setLen (v : Word16) (s : State) : State := { s with len := v }
def State.setMsgid (v : Word16) (s : State) : State := { s with msgid := v }
def State.setSrc (v : Byte) (s : State) : State := { s with src := v }
def State.setDst (v : Byte) (s : State) : State := { s with dst := v }
def State.setCnt (v : Byte) (s : State) : State := { s with cnt := v }
def State.setAcc (v : Word16) (s : State) : State := { s with acc := v }
def State.setRxck (v : Word16) (s : State) : State := { s with rxck := v }
def State.setPay (m : Memory) (s : State) : State := { s with pay := m }
/-- How many cells of `PAY` are the payload of a delivered frame (R41). -/
def State.setReadable (n : Nat) (s : State) : State := { s with readable := n }

/-- A step that executes no `emit` returns the event `none` (R11). -/
def State.quiet (s : State) : State := s.emit .none

/-! ### The accumulator's micro-operations -/

/-- `ACC.LOAD` (R67): the old content is discarded. -/
def State.accLoad (s : State) : State := s.setAcc (ckSeed s.cfg)

/-- `ACC.ADD` (R68): modulo 2^16, the carry out of bit 15 dropped. -/
def State.accAdd (b : Byte) (s : State) : State := s.setAcc (s.acc + zext16 b)

/-- The received checksum `rx = {b, RXCK[7:0]}` (R69). -/
def State.rx (b : Byte) (s : State) : Word16 := joinBytes b (lowByte s.rxck)

/-- `ACC.CMP` (R69): equality of all 16 bits; writes nothing. -/
def State.accCmp (b : Byte) (s : State) : Bool := s.rx b == s.acc

/-! ### Accesses to `PAY` -/

/-- `PAY[CNT] <- b; ACC <- ACC + b; CNT <- CNT + 1` (R91, R92); an index outside 0..127 does not exist (R33). -/
def State.storePayload (b : Byte) (s : State) : Except Fault State :=
  if s.cnt.toNat < maxPayload then
    .ok (((s.setPay (s.pay.write s.cnt.toNat b)).accAdd b).setCnt (s.cnt + 1))
  else .error (.payIndexOutOfRange s.cnt.toNat)

/-- The copy `[PAY[0], ..., PAY[LEN-1]]` of R94 (R23, R35); an index outside 0..127 does not exist (R33). -/
def State.copyPayload (s : State) : Except Fault (List Byte) :=
  if s.len.toNat ≤ maxPayload then .ok (s.pay.readList s.len.toNat)
  else .error (.payIndexOutOfRange maxPayload)

/-- The snapshot of the fields that `FrameOk` carries (R23, R94), with payload `p` and checksum `rx`. -/
def State.snapshot (p : List Byte) (rx : Word16) (s : State) : Frame :=
  { length := s.len, messageId := s.msgid, source := s.src, destination := s.dst, payload := p, checksum := rx }

/-! ### Taking an abnormal condition, and the return from one -/

/-- Taking an abnormal condition (R121): nothing is saved, control goes to `Seeking`, and the event `e` is `none` for X1
and X2, `Malformed(SRC)` for X3 (R114); from then on no cell of `PAY` is a delivered one (R41, U4). There is no return operation: the next byte is processed in `Seeking` (R122). -/
def State.takeAbort (e : Event) (s : State) : State := ((s.goto .seeking).setReadable 0).emit e

/-- A header byte's last part: `ACC <- ACC + b; ST <- t`, no event (R83 to R87). -/
def State.headerStep (b : Byte) (t : ParserState) (s : State) : State := ((s.accAdd b).goto t).quiet

/-- The shared writes of the three DST operations: `DST <- b; ACC <- ACC + b` (R88 to R90). -/
def State.takeDst (b : Byte) (s : State) : State := (s.setDst b).accAdd b

/-- RESET (R77): `ST <- Seeking`, no event; every register and every cell of `PAY` takes the next free value (R29). -/
def State.unspecify (s : State) : State where
  cfg   := s.cfg
  st    := .seeking
  len   := Config.freeLen s.draws
  msgid := Config.freeMsgid s.draws
  src   := Config.freeSrc s.draws
  dst   := Config.freeDst s.draws
  cnt   := Config.freeCnt s.draws
  acc   := Config.freeAcc s.draws
  rxck  := Config.freeRxck s.draws
  pay   := Memory.ofFn (Config.freePay s.draws)
  event := .none
  readable := 0
  input := s.input
  draws := s.draws + 1

end Sys2Proof.Machine
end

