-- ==== Sys2Proof/Machine/CheckBytes.lean ====
section
/-! DEFINITION. The checksum bytes and completion (41_parser.md section 7). -/

namespace Sys2Proof.Machine

/-- CK.LO (R93): `ACC` is not changed. -/
def execCkLo (b : Byte) (s : State) : Host.Outcome State Fault Refusal :=
  .next ((s.setRxck (withLowByte s.rxck b)).goto .readingChecksum1).quiet

/-- CK.OK (R94). From here on the first `LEN` cells of `PAY` are those of a delivered frame (R41). -/
def execCkOk (b : Byte) (s : State) : Host.Outcome State Fault Refusal :=
  match s.copyPayload with
  | .ok p    => .next ((((s.setRxck (withHighByte s.rxck b)).goto .seeking).setReadable s.len.toNat).emit
      (.frameOk (s.snapshot p (s.rx b))))
  | .error f => .fault f

/-- CK.BAD (R95): the abnormal condition X3, reported as `Malformed(SRC)` (R115). -/
def execCkBad (b : Byte) (s : State) : Host.Outcome State Fault Refusal :=
  .next ((s.setRxck (withHighByte s.rxck b)).takeAbort (.malformed s.src))

end Sys2Proof.Machine
end

