-- ==== Sys2Proof/Machine/Control.lean ====
section
/-! DEFINITION. RESET and IDLE (41_parser.md section 2). -/

namespace Sys2Proof.Machine

/-- RESET (R77). -/
def execReset (s : State) : Host.Outcome State Fault Refusal := .next s.unspecify

/-- IDLE (R78): every register keeps its value; the event pulses return to 0. -/
def execIdle (s : State) : Host.Outcome State Fault Refusal := .next s.quiet

end Sys2Proof.Machine
end

