-- ==== Sys2Proof/Machine/Destination.lean ====
section
/-! DEFINITION. The destination byte and the length decision (41_parser.md section 5). -/

namespace Sys2Proof.Machine

/-- DST.DROP (R88): the two writes, then the abnormal condition X2, silent (R116). -/
def execDstDrop (b : Byte) (s : State) : Host.Outcome State Fault Refusal := .next ((s.takeDst b).takeAbort .none)

/-- DST.ZERO (R89). -/
def execDstZero (b : Byte) (s : State) : Host.Outcome State Fault Refusal :=
  .next ((s.takeDst b).goto .readingChecksum0).quiet

/-- DST.PAY (R90). -/
def execDstPay (b : Byte) (s : State) : Host.Outcome State Fault Refusal :=
  .next ((s.takeDst b).goto .readingPayload).quiet

end Sys2Proof.Machine
end

