-- ==== Sys2Proof/Machine/Header.lean ====
section
/-! DEFINITION. The header fields `len`, `msgId` and `src` (41_parser.md section 4). -/

namespace Sys2Proof.Machine

/-- LEN.LO (R83). -/
def execLenLo (b : Byte) (s : State) : Host.Outcome State Fault Refusal :=
  .next ((s.setLen (withLowByte s.len b)).headerStep b .readingLength1)

/-- LEN.HI (R84): the length is not tested here. -/
def execLenHi (b : Byte) (s : State) : Host.Outcome State Fault Refusal :=
  .next ((s.setLen (withHighByte s.len b)).headerStep b .readingMessageId0)

/-- ID.LO (R85). -/
def execIdLo (b : Byte) (s : State) : Host.Outcome State Fault Refusal :=
  .next ((s.setMsgid (withLowByte s.msgid b)).headerStep b .readingMessageId1)

/-- ID.HI (R86). -/
def execIdHi (b : Byte) (s : State) : Host.Outcome State Fault Refusal :=
  .next ((s.setMsgid (withHighByte s.msgid b)).headerStep b .readingSource)

/-- SRC (R87). -/
def execSrc (b : Byte) (s : State) : Host.Outcome State Fault Refusal :=
  .next ((s.setSrc b).headerStep b .readingDestination)

end Sys2Proof.Machine
end

