-- ==== Sys2Proof/Machine/Payload.lean ====
section
/-! DEFINITION. The payload bytes (41_parser.md section 6). -/

namespace Sys2Proof.Machine

/-- PAY.MORE (R91). -/
def execPayMore (b : Byte) (s : State) : Host.Outcome State Fault Refusal :=
  match s.storePayload b with
  | .ok t    => .next (t.goto .readingPayload).quiet
  | .error f => .fault f

/-- PAY.LAST (R92). -/
def execPayLast (b : Byte) (s : State) : Host.Outcome State Fault Refusal :=
  match s.storePayload b with
  | .ok t    => .next (t.goto .readingChecksum0).quiet
  | .error f => .fault f

end Sys2Proof.Machine
end

