-- ==== Sys2Proof/Machine/Sync.lean ====
section
/-! DEFINITION. Finding the frame start (41_parser.md section 3). The byte decides the operation and is not stored (R51). -/

namespace Sys2Proof.Machine

/-- SEEK.MISS (R79). -/
def execSeekMiss (_ : Byte) (s : State) : Host.Outcome State Fault Refusal := .next (s.goto .seeking).quiet

/-- SEEK.HIT (R80). -/
def execSeekHit (_ : Byte) (s : State) : Host.Outcome State Fault Refusal := .next (s.goto .matchedFirstMarker).quiet

/-- SYNC.HIT (R81): `ACC.LOAD`, `CNT <- 0`. -/
def execSyncHit (_ : Byte) (s : State) : Host.Outcome State Fault Refusal :=
  .next ((s.accLoad.setCnt 0).goto .readingLength0).quiet

/-- SYNC.MISS (R82): the abnormal condition X1, silent (R117). -/
def execSyncMiss (_ : Byte) (s : State) : Host.Outcome State Fault Refusal := .next (s.takeAbort .none)

end Sys2Proof.Machine
end

