-- ==== Sys2Proof/Machine/Dispatch.lean ====
section
/-! DEFINITION. One arm per operation. -/

namespace Sys2Proof.Machine

-- An operation is performed as its rule's pseudocode says; which one is performed is the decoder's choice (R62).
def exec (i : Instr) (s : State) : Host.Outcome State Fault Refusal :=
  match i with
  | .reset => Sys2Proof.Machine.execReset s
  | .idle => Sys2Proof.Machine.execIdle s
  | .seekMiss b => Sys2Proof.Machine.execSeekMiss b s
  | .seekHit b => Sys2Proof.Machine.execSeekHit b s
  | .syncHit b => Sys2Proof.Machine.execSyncHit b s
  | .syncMiss b => Sys2Proof.Machine.execSyncMiss b s
  | .lenLo b => Sys2Proof.Machine.execLenLo b s
  | .lenHi b => Sys2Proof.Machine.execLenHi b s
  | .idLo b => Sys2Proof.Machine.execIdLo b s
  | .idHi b => Sys2Proof.Machine.execIdHi b s
  | .src b => Sys2Proof.Machine.execSrc b s
  | .dstDrop b => Sys2Proof.Machine.execDstDrop b s
  | .dstZero b => Sys2Proof.Machine.execDstZero b s
  | .dstPay b => Sys2Proof.Machine.execDstPay b s
  | .payMore b => Sys2Proof.Machine.execPayMore b s
  | .payLast b => Sys2Proof.Machine.execPayLast b s
  | .ckLo b => Sys2Proof.Machine.execCkLo b s
  | .ckOk b => Sys2Proof.Machine.execCkOk b s
  | .ckBad b => Sys2Proof.Machine.execCkBad b s

end Sys2Proof.Machine
end

