-- ==== Sys2Proof/Machine/Fetch.lean ====
section
/-! DEFINITION. How a step's key is formed (R61, R143): the pins of this cycle with the code of `ST`. Nothing is fetched
from memory (R15, R46). -/

namespace Sys2Proof.Machine

/-- A cycle in which the environment offers nothing: `rst = 0`, `in_valid = 0` (R78). -/
def Pins.idle : Pins := { rst := false, inValid := false, inData := 0 }

/-- A cycle that offers the byte `b`: the case `step(s, b)` (R61). -/
def Pins.offer (b : Byte) : Pins := { rst := false, inValid := true, inData := b }

/-- A cycle with `rst = 1` and no byte (R61); `RST` of the stream notation (R66). -/
def Pins.reset : Pins := { rst := true, inValid := false, inData := 0 }

/-- The pins of this cycle; when the environment has supplied nothing, no byte is offered (R47, R111). -/
def State.pins (s : State) : Pins := s.input.headD Pins.idle

/-- The key of R61. -/
def State.key (s : State) : Key := mkKey s.pins.rst s.pins.inValid s.st.code s.pins.inData

/-- The registers the condition column of R62 reads. -/
def State.selRegs (s : State) : SelRegs :=
  { cfg := s.cfg, len := s.len, cnt := s.cnt, acc := s.acc, rxck := s.rxck }

/-- The pins of this cycle are consumed, each exactly once (R34). -/
def State.advance (s : State) : State := { s with input := s.input.tail }

/-- The pins a key names (R61). -/
def Key.pins (k : Key) : Pins := { rst := k.rst, inValid := k.inValid, inData := k.data }

/-- The registers that the condition column of R62 reads in the state `st`, set as in `SelRegs.table`. Log entry 8. -/
def State.withTableRegs (st : ParserState) (s : State) : State :=
  match st with
  | .seeking | .matchedFirstMarker => { s with cfg := SelRegs.table.cfg }
  | .readingDestination => { s with len := SelRegs.table.len }
  | .readingPayload     => { s with len := SelRegs.table.len, cnt := SelRegs.table.cnt }
  | .readingChecksum1   => { s with acc := SelRegs.table.acc, rxck := SelRegs.table.rxck }
  | .readingLength0 | .readingLength1 | .readingMessageId0 | .readingMessageId1 => s
  | .readingSource | .readingChecksum0 => s

/-- The state in which the next step finds the key `k`: its pins next in the input and, where the key consumes a byte, its
`ST` code in `ST` and the selecting registers as in `SelRegs.table`. -/
def State.withKey (k : Key) (s : State) : State :=
  let s1 := { s with input := Key.pins k :: s.input }
  if k.rst then s1
  else if k.inValid then
    match ParserState.ofCode k.stCode with
    | some st => { s1.withTableRegs st with st := st }
    | none    => s1
  else s1

end Sys2Proof.Machine
end

