-- ==== Sys2Proof/Machine/Step.lean ====
section
/-! DEFINITION. One step of the machine: one cycle of the pins (R76, R143, R147). -/

namespace Sys2Proof.Machine

/-- The pins of this cycle, the code of `ST` and the selecting registers choose one operation (R61, R62, R76), which runs
after the pins are consumed. -/
def step (s : State) : Host.Outcome State Fault Refusal :=
  match decode s.selRegs s.key with
  | .ok i    => exec i s.advance
  | .error e => .refused (.noOperation e)

/-- `s` with the key of an opcode-table word as what the next step finds. A word that is no key changes nothing. -/
def State.withFetchWord (s : State) (nbits w : Nat) : State :=
  match keyOfWord nbits w with
  | some k => s.withKey k
  | none   => s

end Sys2Proof.Machine
end

