-- ==== Sys2Proof/Machine/Checksum.lean ====
section
/-! DEFINITION. The function `checksum` (40_checksum.md R70), which encoder and parser must agree with. -/

namespace Sys2Proof.Machine

/-- The true integer sum of a sequence of bytes, each an unsigned value 0..255. -/
def byteSum : List Byte → Nat
  | [] => 0
  | b :: bs => b.toNat + byteSum bs

/-- `checksum(B) = (b_0 + ... + b_(k-1)) mod 2^16` (R70). -/
def checksum (bs : List Byte) : Word16 := BitVec.ofNat 16 (byteSum bs)

end Sys2Proof.Machine
end

