-- ==== Sys2Proof/Machine/Codec.lean ====
section
/-! DEFINITION. The wire frame (30_encoding.md R48 to R55) and the reference function `encode` (42_codec_reference.md R99).
The block never invokes it (R98). -/

namespace Sys2Proof.Machine

/-- The header and the payload, the bytes the checksum covers (R48, R55, R99): offsets 0 to 7+n. -/
def frameBody (cfg : Config) (messageId : Word16) (source destination : Byte) (payload : List Byte) : List Byte :=
  let n : Word16 := BitVec.ofNat 16 payload.length
  [cfg.marker0, cfg.marker1, lowByte n, highByte n, lowByte messageId, highByte messageId, source, destination] ++ payload

/-- `encode` (R99). A payload longer than `MAX_PAYLOAD` is outside its domain: no value (R100, U8). -/
def encodeFrame (cfg : Config) (messageId : Word16) (source destination : Byte) (payload : List Byte) :
    Option (List Byte) :=
  if payload.length ≤ maxPayload then
    let body := frameBody cfg messageId source destination payload
    some (body ++ [lowByte (checksum body), highByte (checksum body)])
  else none

/-- The frame that the arguments of `encode` stand for, as `FrameOk` must report it (R104). -/
def sentFrame (cfg : Config) (messageId : Word16) (source destination : Byte) (payload : List Byte) : Frame :=
  { length := BitVec.ofNat 16 payload.length, messageId := messageId, source := source, destination := destination,
    payload := payload, checksum := checksum (frameBody cfg messageId source destination payload) }

/-- The operations that the encoding of these arguments performs, in order, as R104 lists them: with no payload DST.ZERO, with
`n > 0` bytes DST.PAY, `n - 1` times PAY.MORE and one PAY.LAST. -/
def frameOperations (cfg : Config) (messageId : Word16) (source destination : Byte) (payload : List Byte) : List Instr :=
  let n : Word16 := BitVec.ofNat 16 payload.length
  let ck := checksum (frameBody cfg messageId source destination payload)
  [.seekHit cfg.marker0, .syncHit cfg.marker1, .lenLo (lowByte n), .lenHi (highByte n), .idLo (lowByte messageId),
    .idHi (highByte messageId), .src source]
  ++ (if payload.length = 0 then [.dstZero destination]
      else .dstPay destination :: ((payload.take (payload.length - 1)).map .payMore ++
        (payload.drop (payload.length - 1)).map .payLast))
  ++ [.ckLo (lowByte ck), .ckOk (highByte ck)]

/-- The little-endian 16-bit value at offsets `i`, `i + 1` (R36). -/
def wireWord (bytes : List Byte) (i : Nat) : Word16 := joinBytes (bytes.getD (i + 1) 0) (bytes.getD i 0)

/-- A byte string is a valid frame (R50). -/
def validFrame (cfg : Config) (bytes : List Byte) : Bool :=
  let n := (wireWord bytes 2).toNat
  decide (10 ≤ bytes.length) && (bytes.getD 0 0 == cfg.marker0) && (bytes.getD 1 0 == cfg.marker1)
    && decide (n ≤ maxPayload) && (bytes.length == 10 + n)
    && ((wireWord bytes (8 + n)).toNat == byteSum (bytes.take (8 + n)) % 65536)

/-- The receiver-side reading of a valid frame (R102). -/
def readFrame (bytes : List Byte) : Frame :=
  let n := (wireWord bytes 2).toNat
  { length := wireWord bytes 2, messageId := wireWord bytes 4, source := bytes.getD 6 0, destination := bytes.getD 7 0,
    payload := (bytes.drop 8).take n, checksum := wireWord bytes (8 + n) }

/-- `BADCK(F)` of the stream notation (R66): `ck_lo` replaced by `(ck_lo + 1) mod 256`. -/
def badCk (bytes : List Byte) : List Byte :=
  bytes.set (bytes.length - 2) (bytes.getD (bytes.length - 2) 0 + 1)

end Sys2Proof.Machine
end

