-- ==== Sys2Proof/Machine/Listing.lean ====
section
/-! DEFINITION. The abstract level's function `step(cfg, s, b) -> (s', ev)` as R97 lists it, over the tuple of R13, with the
buffer as cells. The machine of Step.lean does not use it: a statement says that the machine refines it (R147). -/

namespace Sys2Proof.Machine

/-- The tuple `(ST, LEN, MSGID, SRC, DST, CNT, ACC, RXCK, PAY)` of R13. -/
structure Regs where
  st    : ParserState
  len   : Word16
  msgid : Word16
  src   : Byte
  dst   : Byte
  cnt   : Byte
  acc   : Word16
  rxck  : Word16
  pay   : Memory
  deriving DecidableEq, Repr

/-- The tuple of R13 inside a state. -/
def State.regs (s : State) : Regs :=
  { st := s.st, len := s.len, msgid := s.msgid, src := s.src, dst := s.dst, cnt := s.cnt, acc := s.acc,
    rxck := s.rxck, pay := s.pay }

/-- The listing of R97, transcribed. -/
def listing (cfg : Config) (s : Regs) (b : Byte) : Regs × Event :=
  let add : Word16 := s.acc + BitVec.setWidth 16 b
  match s.st with
  | .seeking =>
    if b = cfg.marker0 then ({ s with st := .matchedFirstMarker }, .none) else ({ s with st := .seeking }, .none)
  | .matchedFirstMarker =>
    if b = cfg.marker1 then
      ({ s with acc := BitVec.setWidth 16 cfg.marker0 + BitVec.setWidth 16 cfg.marker1, cnt := 0, st := .readingLength0 },
        .none)
    else ({ s with st := .seeking }, .none)
  | .readingLength0 =>
    ({ s with len := (s.len &&& 0xFF00) ||| BitVec.setWidth 16 b, acc := add, st := .readingLength1 }, .none)
  | .readingLength1 =>
    ({ s with len := (s.len &&& 0x00FF) ||| (BitVec.setWidth 16 b <<< 8), acc := add, st := .readingMessageId0 }, .none)
  | .readingMessageId0 =>
    ({ s with msgid := (s.msgid &&& 0xFF00) ||| BitVec.setWidth 16 b, acc := add, st := .readingMessageId1 }, .none)
  | .readingMessageId1 =>
    ({ s with msgid := (s.msgid &&& 0x00FF) ||| (BitVec.setWidth 16 b <<< 8), acc := add, st := .readingSource }, .none)
  | .readingSource => ({ s with src := b, acc := add, st := .readingDestination }, .none)
  | .readingDestination =>
    let t := { s with dst := b, acc := add }
    if maxPayload < s.len.toNat then ({ t with st := .seeking }, .none)
    else if s.len.toNat = 0 then ({ t with st := .readingChecksum0 }, .none)
    else ({ t with st := .readingPayload }, .none)
  | .readingPayload =>
    let t := { s with pay := s.pay.write s.cnt.toNat b, acc := add, cnt := s.cnt + 1 }
    if s.cnt.toNat + 1 = s.len.toNat then ({ t with st := .readingChecksum0 }, .none)
    else ({ t with st := .readingPayload }, .none)
  | .readingChecksum0 =>
    ({ s with rxck := (s.rxck &&& 0xFF00) ||| BitVec.setWidth 16 b, st := .readingChecksum1 }, .none)
  | .readingChecksum1 =>
    let rx : Word16 := (s.rxck &&& 0x00FF) ||| (BitVec.setWidth 16 b <<< 8)
    let t := { s with rxck := rx, st := .seeking }
    if rx = s.acc then
      (t, .frameOk { length := s.len, messageId := s.msgid, source := s.src, destination := s.dst,
                     payload := s.pay.readList s.len.toNat, checksum := rx })
    else (t, .malformed s.src)

end Sys2Proof.Machine
end

