-- ==== Sys2Proof/Machine/Flags.lean ====
section
/-! DEFINITION. The block has no status flags and no condition codes (R24). Its only one-bit results are the two event
pulses of the port level, registered and one cycle long (R118, R143, R144). -/

namespace Sys2Proof.Machine

/-- `frame_valid`: 1 in exactly the cycle after CK.OK was performed (R144). -/
def State.frameValid (s : State) : Bool :=
  match s.event with
  | .frameOk _ => true
  | .malformed _ => false
  | .none => false

/-- `err_valid`: 1 in exactly the cycle after CK.BAD was performed (R144). -/
def State.errValid (s : State) : Bool :=
  match s.event with
  | .malformed _ => true
  | .frameOk _ => false
  | .none => false

end Sys2Proof.Machine
end

