-- ==== Sys2Proof/Machine/Ports.lean ====
section
/-! DEFINITION. The outputs of the port-level view, as functions of the state (R31, R143). -/

namespace Sys2Proof.Machine

/-- `in_ready`: constant 1, the parser accepts a byte in every cycle (R143, D5). -/
def State.inReady (_ : State) : Bool := true
/-- `frame_len = LEN` (R31). -/
def State.frameLen (s : State) : Word16 := s.len
/-- `frame_msgid = MSGID` (R31). -/
def State.frameMsgid (s : State) : Word16 := s.msgid
/-- `frame_src = SRC` (R31). -/
def State.frameSrc (s : State) : Byte := s.src
/-- `frame_dst = DST` (R31). -/
def State.frameDst (s : State) : Byte := s.dst
/-- `frame_cksum = RXCK` (R31). -/
def State.frameCksum (s : State) : Word16 := s.rxck
/-- `err_src = SRC` (R31). -/
def State.errSrc (s : State) : Byte := s.src
/-- The error code of the parser's one reportable error, `Malformed = 3` (R60). -/
def malformedCode : Byte := 3
/-- `err_code`: constant 3 (R31, R143). -/
def State.errCode (_ : State) : Byte := malformedCode
/-- `ST` is in 2..10: a frame is in progress (R28). -/
def ParserState.inFrame : ParserState → Bool
  | .seeking | .matchedFirstMarker => false
  | .readingLength0 | .readingLength1 | .readingMessageId0 | .readingMessageId1 => true
  | .readingSource | .readingDestination | .readingPayload | .readingChecksum0 | .readingChecksum1 => true
/-- The cell `PAY[i]` holds a byte of the delivered frame: it is one of that frame's cells (R41), and the frame in progress has
not written over it (R138). -/
def State.holdsDelivered (s : State) (i : Nat) : Bool :=
  decide (i < s.readable) && !(ParserState.inFrame s.st && decide (i < s.cnt.toNat))
/-- `pay_rdata`, combinational; reading changes nothing (R31, R40): `PAY[pay_raddr]` where the cell holds a byte of the delivered
frame, and a value that the spec leaves open everywhere else (R41, U4). Log entry 6. -/
def State.payRdata (raddr : BitVec 7) (s : State) : Byte :=
  if s.holdsDelivered raddr.toNat then s.pay.read raddr.toNat else Config.freeRead s raddr.toNat

end Sys2Proof.Machine
end

