-- ==== Sys2Proof/Machine/Stream.lean ====
section
/-! DEFINITION. Runs on a sequence of inputs (R10): the left fold of the step, with the event each input produced. -/

namespace Sys2Proof.Machine

/-- `s` with the pins `p` as what the environment offers next. -/
def State.offered (p : Pins) (s : State) : State := { s with input := p :: s.input }

/-- A run on a sequence of pins, one step each; answers the last state and the events in order, and stops at the first
fault or refusal. -/
def runPins : State → List Pins → Host.Outcome (State × List Event) Fault Refusal
  | s, [] => .next (s, [])
  | s, p :: ps =>
    match step (s.offered p) with
    | .next t =>
      match runPins t ps with
      | .next (u, es) => .next (u, t.event :: es)
      | .fault f => .fault f
      | .refused r => .refused r
    | .fault f => .fault f
    | .refused r => .refused r

/-- Feeding a byte string: `step` on its bytes in order (43_properties.md, opening). -/
def feed (s : State) (bytes : List Byte) : Host.Outcome (State × List Event) Fault Refusal :=
  runPins s (bytes.map Pins.offer)

/-- The operations performed when a byte string is fed, in order, up to the first stop (R104 lists those of a frame). -/
def operations : State → List Byte → List Instr
  | _, [] => []
  | s, b :: bs =>
    match decode s.selRegs (s.offered (Pins.offer b)).key with
    | .error _ => []
    | .ok i =>
      match step (s.offered (Pins.offer b)) with
      | .next t => i :: operations t bs
      | .fault _ => [i]
      | .refused _ => [i]

end Sys2Proof.Machine
end

