-- ==== Sys2Proof/Safety.lean ====
section
/-! DEFINITION. What claims are stated in: the invariants of the reachable states (10_state.md R28), the Frame invariant of
an event (R55), and two runs that agree on the registers the frame in progress has written (R29, R30). -/

namespace Sys2Proof.Machine

/-- The true integer sum of `PAY[0..n-1]`. -/
def paySum (m : Memory) (n : Nat) : Nat := byteSum (m.readList n)

/-- The integer sum of the summed bytes the frame in progress has delivered, in each state 2..10, read back from the
registers that hold them (R28 items a and d, R55, R72). -/
def State.frameSum (s : State) : Nat :=
  let seed := s.cfg.marker0.toNat + s.cfg.marker1.toNat
  let lenLo := (lowByte s.len).toNat
  let lenHi := (highByte s.len).toNat
  let idLo := (lowByte s.msgid).toNat
  let idHi := (highByte s.msgid).toNat
  match s.st with
  | .seeking | .matchedFirstMarker => 0
  | .readingLength0 => seed
  | .readingLength1 => seed + lenLo
  | .readingMessageId0 => seed + lenLo + lenHi
  | .readingMessageId1 => seed + lenLo + lenHi + idLo
  | .readingSource => seed + lenLo + lenHi + idLo + idHi
  | .readingDestination => seed + lenLo + lenHi + idLo + idHi + s.src.toNat
  | .readingPayload | .readingChecksum0 | .readingChecksum1 =>
    seed + lenLo + lenHi + idLo + idHi + s.src.toNat + s.dst.toNat + paySum s.pay s.cnt.toNat

/-- What R28 items b, c and e (and `CNT = 0` in the header states, R81) say of `LEN` and `CNT` in each state. -/
def State.countsOk (s : State) : Prop :=
  match s.st with
  | .seeking | .matchedFirstMarker => True
  | .readingLength0 | .readingLength1 | .readingMessageId0 | .readingMessageId1 => s.cnt.toNat = 0
  | .readingSource | .readingDestination => s.cnt.toNat = 0
  | .readingPayload => 1 ≤ s.len.toNat ∧ s.len.toNat ≤ maxPayload ∧ s.cnt.toNat < s.len.toNat
  | .readingChecksum0 | .readingChecksum1 => s.len.toNat ≤ maxPayload ∧ s.cnt.toNat = s.len.toNat

/-- The invariants of R28 as facts about one state: the buffer is in its canonical form, `LEN` and `CNT` are as items b, c
and e say, and in a frame `ACC` is the true sum of the bytes summed so far (item a, R72). -/
structure State.Inv (s : State) : Prop where
  payWf  : s.pay.wf = true
  counts : s.countsOk
  sum    : ParserState.inFrame s.st = true → s.acc.toNat = s.frameSum

/-! ### The bytes of the frame in progress, as a history beside the state (R27: the machine keeps no past input) -/

/-- How many bytes have been consumed since the frame's SYNC.HIT, in each state 2..10 (R14, R28). -/
def State.heardCount (s : State) : Nat :=
  match s.st with
  | .seeking | .matchedFirstMarker => 0
  | .readingLength0 => 0
  | .readingLength1 => 1
  | .readingMessageId0 => 2
  | .readingMessageId1 => 3
  | .readingSource => 4
  | .readingDestination => 5
  | .readingPayload | .readingChecksum0 => 6 + s.cnt.toNat
  | .readingChecksum1 => 7 + s.cnt.toNat

/-- `h` of R28: the bytes consumed since the last SYNC.HIT, after a step whose earlier bytes were `h`. -/
def State.heardNext (s : State) (h : List Byte) : List Byte :=
  if s.pins.rst then []
  else if s.pins.inValid then (if ParserState.inFrame s.st then h ++ [s.pins.inData] else [])
  else h

/-- R28 items a to d, against the bytes `h` consumed since the last SYNC.HIT while `ST` is in 2..10: `ACC` is `CK_SEED` plus
those of them that were consumed in states 2..8, without reduction, and each register half and each cell below `CNT` that has been
reached holds its own byte of `h`. -/
structure State.Received (h : List Byte) (s : State) : Prop where
  count   : h.length = s.heardCount
  acc     : s.acc.toNat = s.cfg.marker0.toNat + s.cfg.marker1.toNat + byteSum (h.take (6 + s.cnt.toNat))
  lenLo   : ∀ b, h[0]? = some b → lowByte s.len = b
  lenHi   : ∀ b, h[1]? = some b → highByte s.len = b
  idLo    : ∀ b, h[2]? = some b → lowByte s.msgid = b
  idHi    : ∀ b, h[3]? = some b → highByte s.msgid = b
  src     : ∀ b, h[4]? = some b → s.src = b
  dst     : ∀ b, h[5]? = some b → s.dst = b
  payload : ∀ i b, i < s.cnt.toNat → h[6 + i]? = some b → s.pay.read i = b
  ckLo    : ∀ b, h[6 + s.cnt.toNat]? = some b → lowByte s.rxck = b

/-- The Frame invariant of R55 and R23 on the frame of an event: exactly `length` payload bytes, at most `MAX_PAYLOAD`, and
the checksum is that of the header and payload bytes. -/
def Frame.Valid (cfg : Config) (f : Frame) : Prop :=
  f.payload.length = f.length.toNat ∧ f.length.toNat ≤ maxPayload ∧
  f.checksum = Sys2Proof.Machine.checksum (frameBody cfg f.messageId f.source f.destination f.payload)

/-- Every byte of the buffer reads in `t` as it reads in `s`. -/
def State.KeepsPay (s t : State) : Prop := ∀ a, t.pay.read a = s.pay.read a

/-- `n` steps that return the event `none`. -/
def silent (n : Nat) : List Event := List.replicate n Event.none

/-- The two states agree on `PAY[0..n-1]`. -/
def samePay (s t : State) (n : Nat) : Prop := ∀ a, a < n → s.pay.read a = t.pay.read a

/-- Two states that no later event can tell apart: the same markers and `ST`, and the same content in every register and
cell that the frame in progress has written (R28 items d and f, R29, R30). -/
def State.SameFrame (s t : State) : Prop :=
  s.cfg = t.cfg ∧ s.st = t.st ∧
  match s.st with
  | .seeking | .matchedFirstMarker => True
  | .readingLength0 => s.acc = t.acc ∧ s.cnt = t.cnt
  | .readingLength1 => s.acc = t.acc ∧ s.cnt = t.cnt ∧ lowByte s.len = lowByte t.len
  | .readingMessageId0 => s.acc = t.acc ∧ s.cnt = t.cnt ∧ s.len = t.len
  | .readingMessageId1 => s.acc = t.acc ∧ s.cnt = t.cnt ∧ s.len = t.len ∧ lowByte s.msgid = lowByte t.msgid
  | .readingSource => s.acc = t.acc ∧ s.cnt = t.cnt ∧ s.len = t.len ∧ s.msgid = t.msgid
  | .readingDestination =>
    s.acc = t.acc ∧ s.cnt = t.cnt ∧ s.len = t.len ∧ s.msgid = t.msgid ∧ s.src = t.src
  | .readingPayload | .readingChecksum0 =>
    s.acc = t.acc ∧ s.cnt = t.cnt ∧ s.len = t.len ∧ s.msgid = t.msgid ∧ s.src = t.src ∧ s.dst = t.dst ∧
      samePay s t s.cnt.toNat
  | .readingChecksum1 =>
    s.acc = t.acc ∧ s.cnt = t.cnt ∧ s.len = t.len ∧ s.msgid = t.msgid ∧ s.src = t.src ∧ s.dst = t.dst ∧
      samePay s t s.cnt.toNat ∧ lowByte s.rxck = lowByte t.rxck

end Sys2Proof.Machine
end

