-- ==== Sys2Proof/Certificates/Slice0/Obligations.lean ====
section
/-! DEFINITION. The statements for the provers. Each docstring names the rules of spec/ it rests on.
`s.offered (Pins.offer b)` is the state `s` in which the environment offers the byte `b` next, so that
`step (s.offered (Pins.offer b))` is the abstract level's `step(cfg, s, b)` (R10). -/

open Sys2Proof Sys2Proof.Machine

/-! ### Reset, idle, and the step -/

/-- R29, R133: after reset `ST` is `Seeking` and there is no event; the model's own fields hold nothing (log entries 1 and 3
name the values the model chose for the rest, on which nothing here rests). -/
def Obligations.ResetStateIsSeekingWithNoEvent : Prop :=
  State.reset.st = .seeking ∧ State.reset.event = .none ∧ State.reset.frameValid = false ∧
    State.reset.errValid = false ∧ State.reset.input = [] ∧
    ∀ cfg, (State.resetWith cfg).st = .seeking ∧ (State.resetWith cfg).event = .none ∧ (State.resetWith cfg).cfg = cfg

/-- R28: the invariants hold right after reset, in every instance. -/
def Obligations.ResetStateSatisfiesTheInvariants : Prop := ∀ cfg, (State.resetWith cfg).Inv

/-- R77, R29: RESET from any state goes to `Seeking` with no event. Every register and cell takes a free value of its own draw
(the model's form of 'unspecified', log entry 2); the instance's constants and the input to come are untouched, and no cell is a delivered frame's (log entry 6). -/
def Obligations.ResetOperationLeavesOnlySeeking : Prop :=
  ∀ s : State, ∃ t, exec .reset s = .next t ∧ t.st = .seeking ∧ t.event = .none ∧
    t.len = Config.freeLen s.draws ∧ t.msgid = Config.freeMsgid s.draws ∧ t.src = Config.freeSrc s.draws ∧
    t.dst = Config.freeDst s.draws ∧ t.cnt = Config.freeCnt s.draws ∧ t.acc = Config.freeAcc s.draws ∧
    t.rxck = Config.freeRxck s.draws ∧ (∀ i, i < 128 → t.pay.read i = Config.freePay s.draws i) ∧ t.pay.wf = true ∧
    t.readable = 0 ∧ t.cfg = s.cfg ∧ t.input = s.input ∧ t.draws = s.draws + 1

/-- R134, R77, R119: `rst = 1` selects RESET whatever `in_valid` and the byte are; a byte offered in that cycle is lost. -/
def Obligations.ResetWinsOverAnOfferedByte : Prop :=
  ∀ (s : State) (valid : Bool) (b : Byte),
    step (s.offered { rst := true, inValid := valid, inData := b }) = exec .reset s

/-- R78: IDLE changes no register, no cell and not `ST`; the event pulses return to 0; it is selected by `rst = 0` and
`in_valid = 0`, whatever the data wire carries. -/
def Obligations.IdleKeepsEveryRegister : Prop :=
  ∀ s : State,
    (∃ t, exec .idle s = .next t ∧ t = { s with event := .none } ∧ s.KeepsPay t ∧ t.frameValid = false ∧ t.errValid = false) ∧
    ∀ b, step (s.offered { rst := false, inValid := false, inData := b }) = exec .idle s

/-- R78, R111: any number of cycles with no byte, in any state, changes nothing and emits nothing. -/
def Obligations.StalledInputHoldsTheState : Prop :=
  ∀ (n : Nat) (s : State),
    runPins s (List.replicate (n + 1) Pins.idle) = .next ({ s with event := .none }, silent (n + 1))

/-- R47, R111: when the environment has offered nothing, a step changes nothing (the model's reading of an input that has
stopped, log entry 5). -/
def Obligations.StepWithoutInputIsIdle : Prop :=
  ∀ s : State, s.input = [] → step s = .next { s with event := .none }

/-- The step runs the operation that the decoder reads from this cycle's key, after the pins are consumed (R61, R76). Where the
key and the registers select none, it refuses under that name: that clause is the model's own choice (log entry 9), met only with
`CNT + 1 > LEN` in `ReadingPayload`, which R92 says cannot occur. -/
def Obligations.StepRunsTheDecodedOperation : Prop :=
  ∀ s : State,
    (∀ i, decode s.selRegs s.key = .ok i → wellFormed s.cfg i = true → step s = exec i s.advance) ∧
    (∀ i, decode s.selRegs s.key = .ok i → wellFormed s.cfg i = true) ∧
    (∀ e, decode s.selRegs s.key = .error e → step s = .refused (.noOperation e)) ∧
    s.advance = { s with input := s.input.tail }

/-- A word of the opcode table put where the step finds its key runs the operation the decoder reads from that word. -/
def Obligations.FetchedTableWordIsRun : Prop :=
  ∀ (s : State) (nbits w : Nat) (i : Instr), decodeTableWord nbits w = some i →
    step (s.withFetchWord nbits w) = exec i (s.withFetchWord nbits w).advance

/-! ### The key: decode and encode -/

/-- Words written out from the patterns of R62, `r v ssss bbbbbbbb`, decode to their operations, in the model's own context for bare
words: the SEEK and SYNC words rest on the reference markers 0xAA and 0x55 (log entry 1), and DST.PAY, PAY.MORE and CK.BAD on
`LEN = 2`, `CNT = 0`, `ACC = RXCK = 0` (log entry 8); that code 11 is refused by name is log entry 11. -/
def Obligations.WrittenKeysDecode : Prop :=
  decode SelRegs.table 0b10000000000000#14 = .ok .reset ∧
  decode SelRegs.table 0b11101101011010#14 = .ok .reset ∧
  decode SelRegs.table 0b00000000000000#14 = .ok .idle ∧
  decode SelRegs.table 0b01000010101010#14 = .ok (.seekHit 0xAA) ∧
  decode SelRegs.table 0b01000001010101#14 = .ok (.seekMiss 0x55) ∧
  decode SelRegs.table 0b01000101010101#14 = .ok (.syncHit 0x55) ∧
  decode SelRegs.table 0b01001000000100#14 = .ok (.lenLo 0x04) ∧
  decode SelRegs.table 0b01011000000001#14 = .ok (.src 0x01) ∧
  decode SelRegs.table 0b01011100000010#14 = .ok (.dstPay 0x02) ∧
  decode SelRegs.table 0b01100011011110#14 = .ok (.payMore 0xDE) ∧
  decode SelRegs.table 0b01101000000100#14 = .ok (.ckBad 0x04) ∧
  decode SelRegs.table 0b01101100000000#14 = .error (.unusedStCode 11)

/-- R61, R62: for every operation, with every byte, and every content of the selecting registers that meets its condition, the
decoder reads the operation back from its key. -/
def Obligations.DecodeOfEncodeIsTheOperation : Prop :=
  ∀ (r : SelRegs) (i : Instr), selected r i = true → decode r (encode i) = .ok i

/-- R62, R61: what the decoder answers is a row of the opcode table: the key has the row's fixed bits, the row's condition
holds, and the operand is the key's byte. -/
def Obligations.DecodedOperationMatchesItsRow : Prop :=
  ∀ (r : SelRegs) (k : Key) (i : Instr), decode r k = .ok i →
    k &&& i.keyMask = i.keyMatch ∧ selected r i = true ∧ (i.byte = none ∨ i.byte = some k.data)

/-- R62: conversely, a key with a row's fixed bits, in registers that meet the row's condition, decodes to that row; so no two
rows apply to one key. -/
def Obligations.MatchingRowIsDecoded : Prop :=
  ∀ (r : SelRegs) (k : Key) (i : Instr), k &&& i.keyMask = i.keyMatch → selected r i = true →
    (i.byte = none ∨ i.byte = some k.data) → decode r k = .ok i

/-- R96: in every state that satisfies the invariants, a byte selects exactly one operation. -/
def Obligations.SelectionIsTotalAndExclusive : Prop :=
  ∀ (s : State) (b : Byte), s.Inv →
    ∃! i, i.fromState = some s.st ∧ i.byte = some b ∧ selected s.selRegs i = true

/-! ### The operations: effect, frame, selection -/

/-- R79, R80: SEEK.MISS and SEEK.HIT write no register; the byte is compared with `MARKER0` in `Seeking`. -/
def Obligations.SeekOperations : Prop :=
  ∀ (s : State) (b : Byte),
    (∃ t, exec (.seekMiss b) s = .next t ∧ t = { s with st := .seeking, event := .none } ∧ s.KeepsPay t) ∧
    (∃ t, exec (.seekHit b) s = .next t ∧ t = { s with st := .matchedFirstMarker, event := .none } ∧ s.KeepsPay t) ∧
    (s.st = .seeking → b ≠ s.cfg.marker0 → step (s.offered (Pins.offer b)) = exec (.seekMiss b) s) ∧
    (s.st = .seeking → b = s.cfg.marker0 → step (s.offered (Pins.offer b)) = exec (.seekHit b) s)

/-- R81, R82, R67, R117: SYNC.HIT loads `ACC` with `CK_SEED`, clears `CNT` and begins the frame; SYNC.MISS returns to `Seeking`
with no event; each leaves every other register as it was. (The model's own `readable`, which says whose payload the read port
shows, goes to 0 at a silent drop: log entry 6.) -/
def Obligations.SyncOperations : Prop :=
  ∀ (s : State) (b : Byte),
    (∃ t, exec (.syncHit b) s = .next t ∧ t.acc.toNat = (s.cfg.marker0.toNat + s.cfg.marker1.toNat) % 65536 ∧
      t = { s with acc := t.acc, cnt := 0, st := .readingLength0, event := .none } ∧ s.KeepsPay t) ∧
    (∃ t, exec (.syncMiss b) s = .next t ∧ t = { s with st := .seeking, event := .none, readable := 0 } ∧ s.KeepsPay t) ∧
    (s.st = .matchedFirstMarker → b = s.cfg.marker1 → step (s.offered (Pins.offer b)) = exec (.syncHit b) s) ∧
    (s.st = .matchedFirstMarker → b ≠ s.cfg.marker1 → step (s.offered (Pins.offer b)) = exec (.syncMiss b) s)

/-- R82: no partial-match carry-over. With different markers `MARKER0 MARKER0 MARKER1` starts no frame and writes no register (but
the model's own fields for the event and the read port, log entries 6 and 7); with
equal markers a third marker byte is the low length byte. -/
def Obligations.NoPartialMatchCarryOver : Prop :=
  ∀ s : State, s.st = .seeking →
    (s.cfg.marker0 ≠ s.cfg.marker1 →
      feed s [s.cfg.marker0, s.cfg.marker0, s.cfg.marker1] =
        .next ({ s with event := .none, readable := 0 }, silent 3)) ∧
    (s.cfg.marker0 = s.cfg.marker1 →
      ∃ t, feed s [s.cfg.marker0, s.cfg.marker0, s.cfg.marker0] = .next (t, silent 3) ∧ t.st = .readingLength1 ∧
        t.len.toNat % 256 = s.cfg.marker0.toNat)

/-- R83, R84, R68: the two length bytes, low first; each writes its half, is added to `ACC` modulo 2^16, and changes nothing
else. -/
def Obligations.LengthByteOperations : Prop :=
  ∀ (s : State) (b : Byte),
    (∃ t, exec (.lenLo b) s = .next t ∧ t.len.toNat % 256 = b.toNat ∧ t.len.toNat / 256 = s.len.toNat / 256 ∧
      t.acc.toNat = (s.acc.toNat + b.toNat) % 65536 ∧
      t = { s with len := t.len, acc := t.acc, st := .readingLength1, event := .none } ∧ s.KeepsPay t) ∧
    (∃ t, exec (.lenHi b) s = .next t ∧ t.len.toNat / 256 = b.toNat ∧ t.len.toNat % 256 = s.len.toNat % 256 ∧
      t.acc.toNat = (s.acc.toNat + b.toNat) % 65536 ∧
      t = { s with len := t.len, acc := t.acc, st := .readingMessageId0, event := .none } ∧ s.KeepsPay t) ∧
    (s.st = .readingLength0 → step (s.offered (Pins.offer b)) = exec (.lenLo b) s) ∧
    (s.st = .readingLength1 → step (s.offered (Pins.offer b)) = exec (.lenHi b) s)

/-- R85, R86: the two message-identifier bytes, low first; no value is rejected. -/
def Obligations.MessageIdByteOperations : Prop :=
  ∀ (s : State) (b : Byte),
    (∃ t, exec (.idLo b) s = .next t ∧ t.msgid.toNat % 256 = b.toNat ∧ t.msgid.toNat / 256 = s.msgid.toNat / 256 ∧
      t.acc.toNat = (s.acc.toNat + b.toNat) % 65536 ∧
      t = { s with msgid := t.msgid, acc := t.acc, st := .readingMessageId1, event := .none } ∧ s.KeepsPay t) ∧
    (∃ t, exec (.idHi b) s = .next t ∧ t.msgid.toNat / 256 = b.toNat ∧ t.msgid.toNat % 256 = s.msgid.toNat % 256 ∧
      t.acc.toNat = (s.acc.toNat + b.toNat) % 65536 ∧
      t = { s with msgid := t.msgid, acc := t.acc, st := .readingSource, event := .none } ∧ s.KeepsPay t) ∧
    (s.st = .readingMessageId0 → step (s.offered (Pins.offer b)) = exec (.idLo b) s) ∧
    (s.st = .readingMessageId1 → step (s.offered (Pins.offer b)) = exec (.idHi b) s)

/-- R87: the source byte. -/
def Obligations.SourceByteOperation : Prop :=
  ∀ (s : State) (b : Byte),
    (∃ t, exec (.src b) s = .next t ∧ t.acc.toNat = (s.acc.toNat + b.toNat) % 65536 ∧
      t = { s with src := b, acc := t.acc, st := .readingDestination, event := .none } ∧ s.KeepsPay t) ∧
    (s.st = .readingSource → step (s.offered (Pins.offer b)) = exec (.src b) s)

/-- R88, R89, R90, R116: the three DST operations store the byte, add it to `ACC`, and differ in the next state, chosen from all
16 bits of `LEN`; none of them emits or touches `PAY` or `CNT`, which is 0 here under the invariants. That DST.DROP
writes `DST` and `ACC` before it drops is the spec's own reading of its source (R88, D21); that it sets the model's own `readable` to 0
is log entry 6. -/
def Obligations.DestinationOperations : Prop :=
  ∀ (s : State) (b : Byte),
    (∃ t, exec (.dstDrop b) s = .next t ∧ t.acc.toNat = (s.acc.toNat + b.toNat) % 65536 ∧
      t = { s with dst := b, acc := t.acc, st := .seeking, event := .none, readable := 0 } ∧ s.KeepsPay t) ∧
    (∃ t, exec (.dstZero b) s = .next t ∧ t.acc.toNat = (s.acc.toNat + b.toNat) % 65536 ∧
      t = { s with dst := b, acc := t.acc, st := .readingChecksum0, event := .none } ∧ s.KeepsPay t) ∧
    (∃ t, exec (.dstPay b) s = .next t ∧ t.acc.toNat = (s.acc.toNat + b.toNat) % 65536 ∧
      t = { s with dst := b, acc := t.acc, st := .readingPayload, event := .none } ∧ s.KeepsPay t) ∧
    (s.st = .readingDestination → 128 < s.len.toNat → step (s.offered (Pins.offer b)) = exec (.dstDrop b) s) ∧
    (s.st = .readingDestination → s.len.toNat = 0 → step (s.offered (Pins.offer b)) = exec (.dstZero b) s) ∧
    (s.st = .readingDestination → 1 ≤ s.len.toNat → s.len.toNat ≤ 128 →
      step (s.offered (Pins.offer b)) = exec (.dstPay b) s) ∧
    (s.Inv → s.st = .readingDestination → s.cnt.toNat = 0)

/-- R91, R92: with `CNT` inside the buffer and the buffer in its canonical form, the byte is stored at index `CNT` (its value
before the increment), added to `ACC`, and `CNT` goes up by one; every other cell and register is as before. Under the invariants
`CNT + 1 > LEN` does not occur. -/
def Obligations.PayloadByteOperations : Prop :=
  ∀ (s : State) (b : Byte), s.cnt.toNat < 128 → s.pay.wf = true →
    (∃ t, exec (.payMore b) s = .next t ∧ t.pay.read s.cnt.toNat = b ∧
      (∀ a, a ≠ s.cnt.toNat → t.pay.read a = s.pay.read a) ∧ t.acc.toNat = (s.acc.toNat + b.toNat) % 65536 ∧
      t.cnt.toNat = s.cnt.toNat + 1 ∧
      t = { s with pay := t.pay, acc := t.acc, cnt := t.cnt, st := .readingPayload, event := .none }) ∧
    (∃ t, exec (.payLast b) s = .next t ∧ t.pay.read s.cnt.toNat = b ∧
      (∀ a, a ≠ s.cnt.toNat → t.pay.read a = s.pay.read a) ∧ t.acc.toNat = (s.acc.toNat + b.toNat) % 65536 ∧
      t.cnt.toNat = s.cnt.toNat + 1 ∧
      t = { s with pay := t.pay, acc := t.acc, cnt := t.cnt, st := .readingChecksum0, event := .none }) ∧
    (s.st = .readingPayload → s.cnt.toNat + 1 < s.len.toNat →
      step (s.offered (Pins.offer b)) = exec (.payMore b) s) ∧
    (s.st = .readingPayload → s.cnt.toNat + 1 = s.len.toNat →
      step (s.offered (Pins.offer b)) = exec (.payLast b) s) ∧
    (s.Inv → s.st = .readingPayload → s.cnt.toNat + 1 ≤ s.len.toNat ∧ s.len.toNat ≤ 128)

/-- The model's own choice (log entry 9): an access to a cell of `PAY` that does not exist stops under a name of its own, a store at
an index above 127 and the copy of more than 128 cells. R33 gives `PAY` the indices 0..127 only; the spec itself has no faults on
access, since the parser cannot generate such an index (R43): only states outside the invariants of R28 reach either stop. -/
def Obligations.MissingPayloadCellFaults : Prop :=
  ∀ (s : State) (b : Byte),
    (128 ≤ s.cnt.toNat → exec (.payMore b) s = .fault (.payIndexOutOfRange s.cnt.toNat) ∧
      exec (.payLast b) s = .fault (.payIndexOutOfRange s.cnt.toNat)) ∧
    (128 < s.len.toNat → exec (.ckOk b) s = .fault (.payIndexOutOfRange 128))

/-- R93: CK.LO writes `RXCK[7:0]` and does not add to `ACC`. -/
def Obligations.ChecksumLowByteOperation : Prop :=
  ∀ (s : State) (b : Byte),
    (∃ t, exec (.ckLo b) s = .next t ∧ t.rxck.toNat % 256 = b.toNat ∧ t.rxck.toNat / 256 = s.rxck.toNat / 256 ∧
      t = { s with rxck := t.rxck, st := .readingChecksum1, event := .none } ∧ s.KeepsPay t) ∧
    (s.st = .readingChecksum0 → step (s.offered (Pins.offer b)) = exec (.ckLo b) s)

/-- R94: CK.OK completes the frame: `RXCK` is the received checksum, `ST` is `Seeking`, and the event is `FrameOk` with a copy of
the fields and of exactly `LEN` payload bytes; it is selected when the received checksum equals `ACC`. In the cycle after it the data
outputs of R31 and R143 show the fields of that frame, and the read port its payload (the model's own `readable`, log entry 6). -/
def Obligations.MatchingChecksumEmitsTheFrame : Prop :=
  ∀ (s : State) (b : Byte), s.len.toNat ≤ 128 →
    (∃ t f, exec (.ckOk b) s = .next t ∧ t.event = .frameOk f ∧ f.length = s.len ∧ f.messageId = s.msgid ∧ f.source = s.src ∧
      f.destination = s.dst ∧ f.payload.length = s.len.toNat ∧
      (∀ i, i < s.len.toNat → f.payload[i]? = some (s.pay.read i)) ∧
      f.checksum.toNat = 256 * b.toNat + s.rxck.toNat % 256 ∧ t.rxck = f.checksum ∧
      t = { s with rxck := t.rxck, st := .seeking, event := .frameOk f, readable := s.len.toNat } ∧ s.KeepsPay t ∧
      t.frameValid = true ∧ t.errValid = false ∧ t.inReady = true ∧ t.frameLen = f.length ∧ t.frameMsgid = f.messageId ∧
      t.frameSrc = f.source ∧ t.frameDst = f.destination ∧ t.frameCksum = f.checksum ∧
      ∀ i : BitVec 7, i.toNat < s.len.toNat → f.payload[i.toNat]? = some (t.payRdata i)) ∧
    (s.st = .readingChecksum1 → 256 * b.toNat + s.rxck.toNat % 256 = s.acc.toNat →
      step (s.offered (Pins.offer b)) = exec (.ckOk b) s)

/-- R95, R115, R121: CK.BAD takes the one reported abnormal condition: `Malformed` with the declared source, `ST` is `Seeking`,
`RXCK[15:8]` is written and no other register changes (the model's own `readable` goes to 0, log entry 6); it is selected when the received checksum differs from `ACC`. -/
def Obligations.ChecksumMismatchEmitsMalformed : Prop :=
  ∀ (s : State) (b : Byte),
    (∃ t, exec (.ckBad b) s = .next t ∧ t.event = .malformed s.src ∧ t.rxck.toNat = 256 * b.toNat + s.rxck.toNat % 256 ∧
      t = { s with rxck := t.rxck, st := .seeking, event := .malformed s.src, readable := 0 } ∧ s.KeepsPay t ∧
      t.errValid = true ∧ t.frameValid = false ∧ t.errSrc = s.src ∧ t.errCode = 3) ∧
    (s.st = .readingChecksum1 → 256 * b.toNat + s.rxck.toNat % 256 ≠ s.acc.toNat →
      step (s.offered (Pins.offer b)) = exec (.ckBad b) s)

/-! ### The checksum function -/

/-- R70, R71 items d, e, g: the checksum of a concatenation, of one more byte, and of the empty sequence; a zero byte changes
nothing; folding `ACC.ADD` from 0 gives it. -/
def Obligations.ChecksumFoldsAndConcatenates : Prop :=
  checksum [] = 0 ∧
  (∀ xs ys : List Byte, (checksum (xs ++ ys)).toNat = ((checksum xs).toNat + (checksum ys).toNat) % 65536) ∧
  (∀ (xs : List Byte) (b : Byte), (checksum (xs ++ [b])).toNat = ((checksum xs).toNat + b.toNat) % 65536) ∧
  (∀ xs ys : List Byte, checksum (xs ++ 0 :: ys) = checksum (xs ++ ys)) ∧
  (∀ (xs : List Byte) (s : State),
    (xs.foldl (fun (u : State) b => u.accAdd b) { s with acc := 0 }).acc = checksum xs)

/-- R71 items f and h, R38, R74: the checksum does not depend on the order of the bytes, and replacing one byte by another
always changes it. -/
def Obligations.ChecksumIgnoresOrderAndSeesOneChange : Prop :=
  (∀ xs ys : List Byte, xs.Perm ys → checksum xs = checksum ys) ∧
  (∀ (xs ys : List Byte) (x y : Byte), x ≠ y → checksum (xs ++ x :: ys) ≠ checksum (xs ++ y :: ys))

/-! ### The wire frame -/

/-- R99, R100, R101 items a and d, R49: `encode` has a value exactly for a payload of at most 128 bytes; the value has 10 + n
bytes and its length field is little-endian with a zero high byte. -/
def Obligations.EncodeDomainAndLength : Prop :=
  ∀ (cfg : Config) (m : Word16) (src dst : Byte) (p : List Byte),
    (128 < p.length → encodeFrame cfg m src dst p = none) ∧
    (p.length ≤ 128 → ∃ bs, encodeFrame cfg m src dst p = some bs ∧ bs.length = 10 + p.length ∧
      bs[2]? = some (BitVec.ofNat 8 p.length) ∧ bs[3]? = some 0)

/-- R50, R101 item b: a byte string is a valid frame exactly when it is the encoding of some arguments. -/
def Obligations.ValidFramesAreTheEncodings : Prop :=
  ∀ (cfg : Config) (bs : List Byte),
    validFrame cfg bs = true ↔ ∃ m src dst p, encodeFrame cfg m src dst p = some bs

/-- R102, R101 item b: the fields of an encoding are read back from its offsets, so that `encode` is injective. -/
def Obligations.EncodedFieldsAreReadBack : Prop :=
  ∀ (cfg : Config) (m : Word16) (src dst : Byte) (p bs : List Byte), encodeFrame cfg m src dst p = some bs →
    readFrame bs = sentFrame cfg m src dst p ∧
    ∀ m' src' dst' p', encodeFrame cfg m' src' dst' p' = some bs → m' = m ∧ src' = src ∧ dst' = dst ∧ p' = p

/-! ### Invariants and whole-machine rules -/

/-- R28, R72: every step keeps the invariants: the buffer's canonical form and bounds, `LEN` and `CNT` as the state says, and `ACC`
equal to the true sum of the bytes summed so far. -/
def Obligations.StepKeepsTheInvariants : Prop := ∀ s t : State, s.Inv → step s = .next t → t.Inv

/-- R76, R110: in a state that satisfies the invariants a step always completes, whatever the pins carry: it never faults, never
refuses a byte, and consumes exactly one cycle of the pins. -/
def Obligations.StepAlwaysCompletes : Prop := ∀ s : State, s.Inv → ∃ t, step s = .next t ∧ t.input = s.input.tail

/-- R97, R147, R10: every cycle of the machine is RESET, no step, or one step of the listing of R97 with its event. -/
def Obligations.MachineRefinesTheListing : Prop :=
  ∀ s : State, s.Inv → ∃ t, step s = .next t ∧ t.cfg = s.cfg ∧ t.input = s.input.tail ∧
    (s.pins.rst = true → t.st = .seeking ∧ t.event = .none) ∧
    (s.pins.rst = false → s.pins.inValid = false → t.regs = s.regs ∧ t.event = .none) ∧
    (s.pins.rst = false → s.pins.inValid = true → (t.regs, t.event) = listing s.cfg s.regs s.pins.inData)

/-- R96: the next-state table. A step goes only from a state of the table to a state the table gives it. -/
def Obligations.NextStateTable : Prop :=
  ∀ s t : State, step s = .next t →
    (s.pins.rst = true → t.st = .seeking) ∧
    (s.pins.rst = false → s.pins.inValid = false → t.st = s.st) ∧
    (s.pins.rst = false → s.pins.inValid = true →
      (s.st = .seeking → t.st = .seeking ∨ t.st = .matchedFirstMarker) ∧
      (s.st = .matchedFirstMarker → t.st = .readingLength0 ∨ t.st = .seeking) ∧
      (s.st = .readingLength0 → t.st = .readingLength1) ∧
      (s.st = .readingLength1 → t.st = .readingMessageId0) ∧
      (s.st = .readingMessageId0 → t.st = .readingMessageId1) ∧
      (s.st = .readingMessageId1 → t.st = .readingSource) ∧
      (s.st = .readingSource → t.st = .readingDestination) ∧
      (s.st = .readingDestination → t.st = .seeking ∨ t.st = .readingChecksum0 ∨ t.st = .readingPayload) ∧
      (s.st = .readingPayload → t.st = .readingPayload ∨ t.st = .readingChecksum0) ∧
      (s.st = .readingChecksum0 → t.st = .readingChecksum1) ∧
      (s.st = .readingChecksum1 → t.st = .seeking))

/-- R16 to R20, R22, R25, R35: which operations write which register. Except for RESET, each half register, register and cell is
changed only by the operations the spec names for it, and the instance's constants by none; the model's own `readable` is changed
by the end of a frame and the silent drops (log entry 6). -/
def Obligations.EachRegisterHasItsWriters : Prop :=
  ∀ (i : Instr) (s t : State), s.pay.wf = true → exec i s = .next t →
    t.cfg = s.cfg ∧ t.input = s.input ∧
    (i ≠ .reset → t.draws = s.draws ∧
      (lowByte t.len ≠ lowByte s.len → ∃ b, i = .lenLo b) ∧
      (highByte t.len ≠ highByte s.len → ∃ b, i = .lenHi b) ∧
      (lowByte t.msgid ≠ lowByte s.msgid → ∃ b, i = .idLo b) ∧
      (highByte t.msgid ≠ highByte s.msgid → ∃ b, i = .idHi b) ∧
      (t.src ≠ s.src → ∃ b, i = .src b) ∧
      (t.dst ≠ s.dst → ∃ b, i = .dstDrop b ∨ i = .dstZero b ∨ i = .dstPay b) ∧
      (t.cnt ≠ s.cnt → ∃ b, i = .syncHit b ∨ i = .payMore b ∨ i = .payLast b) ∧
      (t.acc ≠ s.acc → ∃ b, i = .syncHit b ∨ i = .lenLo b ∨ i = .lenHi b ∨ i = .idLo b ∨ i = .idHi b ∨ i = .src b ∨
        i = .dstDrop b ∨ i = .dstZero b ∨ i = .dstPay b ∨ i = .payMore b ∨ i = .payLast b) ∧
      (lowByte t.rxck ≠ lowByte s.rxck → ∃ b, i = .ckLo b) ∧
      (highByte t.rxck ≠ highByte s.rxck → ∃ b, i = .ckOk b ∨ i = .ckBad b) ∧
      (t.readable ≠ s.readable → ∃ b, i = .syncMiss b ∨ i = .dstDrop b ∨ i = .ckOk b ∨ i = .ckBad b) ∧
      (∀ a, t.pay.read a ≠ s.pay.read a → a = s.cnt.toNat ∧ ∃ b, i = .payMore b ∨ i = .payLast b))

/-- R112, R43: in a state that satisfies the invariants a step other than RESET changes no cell of `PAY` but the one at `CNT`, in
`ReadingPayload`, below `LEN` and below 128. -/
def Obligations.PayloadWritesStayBelowLength : Prop :=
  ∀ (s t : State) (a : Nat), s.Inv → s.pins.rst = false → step s = .next t → t.pay.read a ≠ s.pay.read a →
    s.st = .readingPayload ∧ s.pins.inValid = true ∧ a = s.cnt.toNat ∧ a < s.len.toNat ∧ s.len.toNat ≤ 128

/-- R72: inside the parser the accumulator never wraps. A byte consumed in a state 2..8 is added to `ACC` as an integer, with no
reduction; the result is at most the two markers plus 33788, so at most 34298 (34043 with the reference markers, log entry 1), and
after the destination byte of an oversize frame at most 2040. Begun by SYNC.HIT, the sum is the two markers, again unreduced. -/
def Obligations.AccumulatorNeverWrapsInAFrame : Prop :=
  ∀ (s t : State) (b : Byte), s.Inv → step (s.offered (Pins.offer b)) = .next t →
    (ParserState.inFrame s.st = true → s.st ≠ .readingChecksum0 → s.st ≠ .readingChecksum1 →
      t.acc.toNat = s.acc.toNat + b.toNat ∧
      t.acc.toNat ≤ s.cfg.marker0.toNat + s.cfg.marker1.toNat + 33788 ∧ t.acc.toNat ≤ 34298 ∧
      (s.cfg = Config.reference → t.acc.toNat ≤ 34043) ∧
      (s.st = .readingDestination → t.acc.toNat ≤ 2040)) ∧
    (t.st = .readingLength0 → t.acc.toNat = s.cfg.marker0.toNat + s.cfg.marker1.toNat) ∧
    (ParserState.inFrame t.st = true → t.acc.toNat = t.frameSum ∧ t.frameSum ≤ 34298)

/-- R108, R144, R118: an event is produced only by a byte consumed in `ReadingChecksum(1)`, by CK.OK or CK.BAD; any other cycle
clears the pulses, and the two are never both 1. -/
def Obligations.OnlyChecksumHighByteEmits : Prop :=
  ∀ s t : State, step s = .next t →
    (t.frameValid = true ↔ ∃ b, decode s.selRegs s.key = .ok (.ckOk b)) ∧
    (t.errValid = true ↔ ∃ b, decode s.selRegs s.key = .ok (.ckBad b)) ∧
    (t.event ≠ .none → s.st = .readingChecksum1 ∧ s.pins.rst = false ∧ s.pins.inValid = true) ∧
    ¬ (t.frameValid = true ∧ t.errValid = true)

/-- R55, R131, R23: every `FrameOk` carries exactly `length` payload bytes, at most 128, and the checksum of its header and payload
bytes. -/
def Obligations.EmittedFramesAreValid : Prop :=
  ∀ (s t : State) (f : Frame), s.Inv → step s = .next t → t.event = .frameOk f → f.Valid s.cfg

/-- R29, R30, R28 item f: no later behaviour depends on what RESET or the last frame left in the registers. Two states in
`Seeking` with the same markers give the same events on every sequence of pins. -/
def Obligations.UnspecifiedRegistersAreNeverObserved : Prop :=
  ∀ (s t : State) (ps : List Pins), s.Inv → t.Inv → s.st = .seeking → t.st = .seeking → s.cfg = t.cfg →
    ∃ s' t' es, runPins s ps = .next (s', es) ∧ runPins t ps = .next (t', es) ∧ s'.st = t'.st ∧ s'.Inv ∧ t'.Inv

/-! ### Runs on byte streams -/

/-- R73: after the header and payload bytes of a frame, fed from `Seeking`, the parser is in `ReadingChecksum(0)` and `ACC` is the
checksum of those bytes; nothing has been emitted. -/
def Obligations.AccumulatorAgreesWithChecksum : Prop :=
  ∀ (s : State) (m : Word16) (src dst : Byte) (p : List Byte), s.Inv → s.st = .seeking → p.length ≤ 128 →
    ∃ t, feed s (frameBody s.cfg m src dst p) = .next (t, silent (8 + p.length)) ∧ t.st = .readingChecksum0 ∧
      t.acc = checksum (frameBody s.cfg m src dst p)

/-- R104: framing round-trip. Feeding an encoding from `Seeking` gives `none` at each of its first 9 + n bytes and `FrameOk` with
the fields sent at its last, performs the operations of the rule in their order, and ends in `Seeking`. -/
def Obligations.FramingRoundTrip : Prop :=
  ∀ (s : State) (m : Word16) (src dst : Byte) (p bs : List Byte), s.Inv → s.st = .seeking →
    encodeFrame s.cfg m src dst p = some bs →
    (∃ t, feed s bs = .next (t, silent (9 + p.length) ++ [.frameOk (sentFrame s.cfg m src dst p)]) ∧ t.st = .seeking) ∧
    operations s bs = frameOperations s.cfg m src dst p

/-- R54, R56, R94, R95: from `Seeking`, after the two markers the declared length alone says where the frame ends: the payload
bytes may be anything, the marker pair among them, and the two bytes after them are taken as the checksum. One event, at the last
byte, says whether it was right. -/
def Obligations.HeaderLengthAloneDelimitsTheFrame : Prop :=
  ∀ (s : State) (m : Word16) (src dst : Byte) (p : List Byte) (c0 c1 : Byte), s.Inv → s.st = .seeking → p.length ≤ 128 →
    (joinBytes c1 c0 = checksum (frameBody s.cfg m src dst p) →
      ∃ t, feed s (frameBody s.cfg m src dst p ++ [c0, c1]) =
        .next (t, silent (9 + p.length) ++ [.frameOk (sentFrame s.cfg m src dst p)]) ∧ t.st = .seeking) ∧
    (joinBytes c1 c0 ≠ checksum (frameBody s.cfg m src dst p) →
      ∃ t, feed s (frameBody s.cfg m src dst p ++ [c0, c1]) =
        .next (t, silent (9 + p.length) ++ [.malformed src]) ∧ t.st = .seeking)

/-- R106 item a, R82: one stray `MARKER0` before a valid frame hides it when the markers differ: its own first marker is consumed by
SYNC.MISS, and the rest, where it holds no `MARKER0`, is noise. -/
def Obligations.StrayMarkerHidesTheNextFrame : Prop :=
  ∀ (s : State) (F : List Byte), s.st = .seeking → s.cfg.marker0 ≠ s.cfg.marker1 → validFrame s.cfg F = true →
    s.cfg.marker0 ∉ F.tail →
    ∃ t, feed s (s.cfg.marker0 :: F) = .next (t, silent (F.length + 1)) ∧ t.st = .seeking

/-- R105: valid frames back to back give exactly their `FrameOk` events, each at the last byte of its frame. -/
def Obligations.BackToBackFramesNeedNoGap : Prop :=
  ∀ (s : State) (fs : List (List Byte)), s.Inv → s.st = .seeking → (∀ F ∈ fs, validFrame s.cfg F = true) →
    ∃ t, feed s fs.flatten =
      .next (t, (fs.map fun F => silent (F.length - 1) ++ [Event.frameOk (readFrame F)]).flatten) ∧ t.st = .seeking

/-- R106: if a byte string leaves the parser in `Seeking`, the next valid frame is parsed; noise without `MARKER0` does so, and
emits nothing. -/
def Obligations.ResynchronisationExactForm : Prop :=
  ∀ (s : State) (g F : List Byte), s.Inv → validFrame s.cfg F = true →
    (∀ t es, feed s g = .next (t, es) → t.st = .seeking →
      ∃ u, feed s (g ++ F) = .next (u, es ++ silent (F.length - 1) ++ [.frameOk (readFrame F)]) ∧ u.st = .seeking) ∧
    (s.st = .seeking → s.cfg.marker0 ∉ g → ∃ t, feed s g = .next (t, silent g.length) ∧ t.st = .seeking)

/-- R107: from a state other than `Seeking`, among the next 137 bytes there is one after which the parser is in `Seeking`; from
`ReadingLength(0)` among the next 136; from `ReadingPayload` after exactly `LEN - CNT + 2`. (From `Seeking` itself a whole frame
of 138 bytes may pass: log entry 10.) -/
def Obligations.SeekingWithinBoundedBytes : Prop :=
  ∀ (s : State) (bs : List Byte), s.Inv → s.st ≠ .seeking →
    (137 ≤ bs.length → ∃ k t es, 1 ≤ k ∧ k ≤ 137 ∧ feed s (bs.take k) = .next (t, es) ∧ t.st = .seeking) ∧
    (s.st = .readingLength0 → 136 ≤ bs.length →
      ∃ k t es, 1 ≤ k ∧ k ≤ 136 ∧ feed s (bs.take k) = .next (t, es) ∧ t.st = .seeking) ∧
    (s.st = .readingPayload → bs.length = s.len.toNat - s.cnt.toNat + 2 →
      ∃ t es, feed s bs = .next (t, es) ∧ t.st = .seeking)

/-- R113: from every state that satisfies the invariants, 137 bytes or more without `MARKER0` bring the parser to `Seeking`. -/
def Obligations.NoiseWithoutMarkerRecovers : Prop :=
  ∀ (s : State) (bs : List Byte), s.Inv → 137 ≤ bs.length → s.cfg.marker0 ∉ bs →
    ∃ t es, feed s bs = .next (t, es) ∧ t.st = .seeking

/-- R108: any two events of a run are at least 10 bytes apart. -/
def Obligations.EventsAreTenBytesApart : Prop :=
  ∀ (s t : State) (bs : List Byte) (es : List Event) (p q : Nat), feed s bs = .next (t, es) → p < q → q < es.length →
    es[p]? ≠ some .none → es[q]? ≠ some .none → p + 10 ≤ q

/-- R109 items a and b: one byte of an encoded frame changed, from `msgId` to the last checksum byte: exactly one event,
`Malformed` with the source byte as received (the changed one, where `src` is the byte changed), at the last byte. -/
def Obligations.CorruptedFrameIsReported : Prop :=
  ∀ (s : State) (F : List Byte) (k : Nat) (x : Byte), s.Inv → s.st = .seeking → validFrame s.cfg F = true →
    4 ≤ k → k < F.length → F[k]? ≠ some x →
    ∃ t, feed s (F.set k x) = .next (t, silent (F.length - 1) ++ [.malformed ((F.set k x).getD 6 0)]) ∧ t.st = .seeking

/-- R109 items c, d and e (a length above 128): a changed marker byte starts no frame, and a changed length byte that makes the
declared length oversize drops the frame after `dst`; both in silence. -/
def Obligations.CorruptedStartOrLengthIsSilent : Prop :=
  ∀ (s : State) (F : List Byte) (x : Byte), s.Inv → s.st = .seeking → validFrame s.cfg F = true →
    (x ≠ s.cfg.marker0 → ∃ t, feed s ((F.set 0 x).take 1) = .next (t, silent 1) ∧ t.st = .seeking) ∧
    (x ≠ s.cfg.marker1 → ∃ t, feed s ((F.set 1 x).take 2) = .next (t, silent 2) ∧ t.st = .seeking) ∧
    (x ≠ 0 → ∃ t, feed s ((F.set 3 x).take 8) = .next (t, silent 8) ∧ t.st = .seeking) ∧
    (128 < x.toNat → ∃ t, feed s ((F.set 2 x).take 8) = .next (t, silent 8) ∧ t.st = .seeking)

/-- R137, R138, R139: how long the registers and the buffer keep what an event left, counted in bytes consumed after it (the
parser is then in `Seeking`); and the read port shows the cells still held, as far as they are a delivered frame's (R41, log entry 6). -/
def Obligations.RetentionWindowsAfterAnEvent : Prop :=
  ∀ (s t : State) (bs : List Byte) (es : List Event), s.pay.wf = true → s.st = .seeking → feed s bs = .next (t, es) →
    (bs.length < 2 → t.acc = s.acc ∧ t.cnt = s.cnt) ∧
    (bs.length < 3 → lowByte t.len = lowByte s.len) ∧ (bs.length < 4 → highByte t.len = highByte s.len) ∧
    (bs.length < 5 → lowByte t.msgid = lowByte s.msgid) ∧ (bs.length < 6 → highByte t.msgid = highByte s.msgid) ∧
    (bs.length < 7 → t.src = s.src) ∧ (bs.length < 8 → t.dst = s.dst) ∧
    (bs.length < 9 → lowByte t.rxck = lowByte s.rxck) ∧ (bs.length < 10 → highByte t.rxck = highByte s.rxck) ∧
    (∀ i, bs.length < 9 + i → t.pay.read i = s.pay.read i) ∧
    (∀ i : BitVec 7, bs.length < 9 + i.toNat → i.toNat < t.readable → t.payRdata i = s.pay.read i.toNat)

/-- R135, R77, R104: after RESET in the middle of anything, a valid frame is parsed, and the interrupted one is not reported. -/
def Obligations.ResetThenFrameIsParsed : Prop :=
  ∀ (s : State) (ps : List Pins) (F : List Byte), s.Inv → validFrame s.cfg F = true →
    ∃ t u es, runPins s ps = .next (u, es) ∧
      runPins s (ps ++ Pins.reset :: F.map Pins.offer) =
        .next (t, es ++ .none :: (silent (F.length - 1) ++ [.frameOk (readFrame F)])) ∧ t.st = .seeking

/-! ### The bytes held, the count, the read port, and a changed length -/

/-- R28 items a to d: while `ST` is in 2..10 the registers and the cells hold the bytes consumed since the last SYNC.HIT, each its
own, and `ACC` is `CK_SEED` plus those of them that were consumed in states 2..8. Every step that stays in a frame keeps this, and
SYNC.HIT, the one way into a frame, begins it with no byte. -/
def Obligations.ReceivedBytesAreHeld : Prop :=
  ∀ (s t : State) (h : List Byte), s.Inv → (ParserState.inFrame s.st = true → s.Received h) → step s = .next t →
    ParserState.inFrame t.st = true → t.Received (s.heardNext h)

/-- R28 item e, R19: `CNT` is at most 128 in every state 2..10, SYNC.HIT writes 0 to it, and no step but RESET takes it from a
value up to 128 to one above, so that it stays there once written. -/
def Obligations.CountStaysWithinTheBuffer : Prop :=
  ∀ s t : State, s.Inv → step s = .next t →
    (s.pins.rst = false → s.cnt.toNat ≤ 128 → t.cnt.toNat ≤ 128) ∧
    (ParserState.inFrame t.st = true → t.cnt.toNat ≤ 128) ∧
    (s.st = .matchedFirstMarker → t.st = .readingLength0 → t.cnt = 0)

/-- R41, R31, R40: the read port answers a byte of a delivered frame only where the cell is one of that frame's, and has no value of
its own elsewhere: a free value at an index from `LEN` on after CK.OK, and at every index right after reset, after RESET, after
CK.BAD, and after the silent drops SYNC.MISS and DST.DROP; and in any state at an index that is not below `readable` (log entry 6). -/
def Obligations.UndeliveredCellsReadAsFreeValues : Prop :=
  ∀ (s t : State) (b : Byte) (a : BitVec 7),
    (exec .reset s = .next t → t.payRdata a = Config.freeRead t a.toNat) ∧
    (exec (.ckBad b) s = .next t → t.payRdata a = Config.freeRead t a.toNat) ∧
    (exec (.syncMiss b) s = .next t → t.payRdata a = Config.freeRead t a.toNat) ∧
    (exec (.dstDrop b) s = .next t → t.payRdata a = Config.freeRead t a.toNat) ∧
    (exec (.ckOk b) s = .next t → s.len.toNat ≤ a.toNat → t.payRdata a = Config.freeRead t a.toNat) ∧
    (s.readable ≤ a.toNat → s.payRdata a = Config.freeRead s a.toNat) ∧
    ∀ cfg, (State.resetWith cfg).payRdata a = Config.freeRead (State.resetWith cfg) a.toNat

/-- R109 item e, a changed low length byte `x` of at most 128. Where it is above the length sent, the frame's own checksum bytes are
taken as payload: no event while the frame is fed, and the parser is not in `Seeking` at its end. Where it is below, the parser
compares after `x` payload bytes, using the two bytes that follow as the checksum: `FrameOk` with wrong content where they happen to
match, else `Malformed`. -/
def Obligations.CorruptedLengthWithinTheBuffer : Prop :=
  ∀ (s : State) (F : List Byte) (x : Byte), s.Inv → s.st = .seeking → validFrame s.cfg F = true → x.toNat ≤ 128 →
    ((wireWord F 2).toNat < x.toNat →
      ∃ t, feed s (F.set 2 x) = .next (t, silent F.length) ∧ t.st ≠ .seeking) ∧
    (x.toNat < (wireWord F 2).toNat →
      (wireWord (F.set 2 x) (8 + x.toNat) = checksum ((F.set 2 x).take (8 + x.toNat)) →
        ∃ t, feed s ((F.set 2 x).take (10 + x.toNat)) =
          .next (t, silent (9 + x.toNat) ++ [.frameOk (readFrame ((F.set 2 x).take (10 + x.toNat)))]) ∧ t.st = .seeking) ∧
      (wireWord (F.set 2 x) (8 + x.toNat) ≠ checksum ((F.set 2 x).take (8 + x.toNat)) →
        ∃ t, feed s ((F.set 2 x).take (10 + x.toNat)) =
          .next (t, silent (9 + x.toNat) ++ [.malformed (F.getD 6 0)]) ∧ t.st = .seeking))
end

