-- ==== Sys2Proof/Laws/Decode.lean ====
section
/-! SUPPORT. The key and its fields (R61), the codes of `ST` (R14), and once what the decoder answers for the key the
machine forms. -/

namespace Sys2Proof

theorem mkKey_toNat (r v : Bool) (c : BitVec 4) (b : Byte) :
    (mkKey r v c b).toNat = 8192 * r.toNat + 4096 * v.toNat + 256 * c.toNat + b.toNat := by
  have hb := b.isLt
  have hc := c.isLt
  rw [mkKey, BitVec.toNat_append, BitVec.toNat_append, BitVec.toNat_append, ← Nat.shiftLeft_add_eq_or_of_lt hb,
    ← Nat.shiftLeft_add_eq_or_of_lt hc, ← Nat.shiftLeft_add_eq_or_of_lt (BitVec.ofBool v).isLt]
  simp only [BitVec.toNat_ofBool, Nat.shiftLeft_eq]
  omega

@[simp] theorem mkKey_data (r v : Bool) (c : BitVec 4) (b : Byte) : (mkKey r v c b).data = b := by
  have hb := b.isLt
  apply BitVec.eq_of_toNat_eq
  rw [Key.data, BitVec.extractLsb'_toNat, mkKey_toNat, Nat.shiftRight_eq_div_pow]
  omega

@[simp] theorem mkKey_stCode (r v : Bool) (c : BitVec 4) (b : Byte) : (mkKey r v c b).stCode = c := by
  have hb := b.isLt
  have hc := c.isLt
  apply BitVec.eq_of_toNat_eq
  rw [Key.stCode, BitVec.extractLsb'_toNat, mkKey_toNat, Nat.shiftRight_eq_div_pow]
  omega

@[simp] theorem mkKey_inValid (r v : Bool) (c : BitVec 4) (b : Byte) : (mkKey r v c b).inValid = v := by
  have hb := b.isLt
  have hc := c.isLt
  rw [Key.inValid, BitVec.getLsbD, Nat.testBit_eq_decide_div_mod_eq, mkKey_toNat]
  cases r <;> cases v <;> simp <;> omega

@[simp] theorem mkKey_rst (r v : Bool) (c : BitVec 4) (b : Byte) : (mkKey r v c b).rst = r := by
  have hb := b.isLt
  have hc := c.isLt
  rw [Key.rst, BitVec.getLsbD, Nat.testBit_eq_decide_div_mod_eq, mkKey_toNat]
  cases r <;> cases v <;> simp <;> omega

@[simp] theorem ParserState.ofCode_code (t : ParserState) : ParserState.ofCode t.code = some t := by cases t <;> decide

theorem ParserState.code_of_ofCode {c : BitVec 4} {t : ParserState} (h : ParserState.ofCode c = some t) : t.code = c := by
  revert h
  revert t c
  decide +revert

/-- The decoder on a key made of its fields: RESET, IDLE, or the row of the byte (R62). -/
theorem decode_mkKey (r : SelRegs) (rst v : Bool) (t : ParserState) (b : Byte) :
    decode r (mkKey rst v t.code b) =
      if rst then .ok .reset else if v then selectByte r t b else .ok .idle := by
  simp [decode]

/-- What the decoder answers, once: RESET when `rst` is 1, IDLE when neither wire is 1, and otherwise the row of the byte in
the state the code names. -/
theorem decode_cases {r : SelRegs} {k : Key} {i : Instr} (h : decode r k = .ok i) :
    (k.rst = true ∧ i = .reset) ∨ (k.rst = false ∧ k.inValid = false ∧ i = .idle) ∨
      (k.rst = false ∧ k.inValid = true ∧ ∃ t, ParserState.ofCode k.stCode = some t ∧ selectByte r t k.data = .ok i) := by
  unfold decode at h
  cases hr : k.rst <;> cases hv : k.inValid <;> simp [hr, hv] at h
  · exact .inr (.inl ⟨rfl, rfl, h.symm⟩)
  · cases ht : ParserState.ofCode k.stCode with
    | none => simp [ht] at h
    | some t => exact .inr (.inr ⟨rfl, rfl, t, rfl, by simpa [ht] using h⟩)
  · exact .inl ⟨rfl, h.symm⟩
  · exact .inl ⟨rfl, h.symm⟩

/-- A key is determined by its four fields. -/
theorem mkKey_fields (k : Key) : mkKey k.rst k.inValid k.stCode k.data = k := by
  have hk := k.isLt
  apply BitVec.eq_of_toNat_eq
  rw [mkKey_toNat, Key.data, Key.stCode, BitVec.extractLsb'_toNat, BitVec.extractLsb'_toNat, Key.rst, Key.inValid,
    BitVec.getLsbD, BitVec.getLsbD, Nat.testBit_eq_decide_div_mod_eq, Nat.testBit_eq_decide_div_mod_eq,
    Nat.shiftRight_eq_div_pow, Nat.shiftRight_eq_div_pow]
  by_cases h1 : k.toNat / 2 ^ 13 % 2 = 1 <;> by_cases h2 : k.toNat / 2 ^ 12 % 2 = 1 <;>
    simp only [h1, h2, decide_true, decide_false, Bool.toNat_true, Bool.toNat_false] <;> omega

/-- Two keys with the same bits are equal. -/
theorem key_ext {k m : Key} : k = m ↔ (∀ j, j < 14 → k.getLsbD j = m.getLsbD j) :=
  ⟨fun h _ _ => h ▸ rfl, fun h => BitVec.eq_of_getLsbD_eq h⟩

/-- The fixed bits of RESET's row say `rst = 1` (R62). -/
theorem key_and_reset (k : Key) : k &&& 0x2000 = 0x2000 ↔ k.rst = true := by
  rw [key_ext, Key.rst]
  constructor
  · intro h
    have := h 13 (by omega)
    simpa using this
  · intro h j hj
    rw [BitVec.getLsbD_and]
    by_cases h13 : j = 13
    · subst h13; rw [h]; rfl
    · interval_cases j <;> first | exact Bool.and_false _ | exact absurd rfl h13

/-- The fixed bits of IDLE's row say `rst = 0` and `in_valid = 0` (R62). -/
theorem key_and_idle (k : Key) : k &&& 0x3000 = 0x0000 ↔ k.rst = false ∧ k.inValid = false := by
  rw [key_ext, Key.rst, Key.inValid]
  constructor
  · intro h
    have h1 := h 13 (by omega)
    have h2 := h 12 (by omega)
    rw [BitVec.getLsbD_and] at h1 h2
    exact ⟨by simpa using h1, by simpa using h2⟩
  · rintro ⟨h1, h2⟩ j hj
    rw [BitVec.getLsbD_and]
    interval_cases j <;> first | exact Bool.and_false _ | (rw [h1]; rfl) | (rw [h2]; rfl)

/-- The bits the other rows fix are the two wires and the `ST` code (R62). -/
theorem key_and_state (k : Key) : k &&& 0x3F00 = mkKey k.rst k.inValid k.stCode 0 := by
  rw [key_ext]
  intro j hj
  rw [BitVec.getLsbD_and]
  have hk := k.isLt
  have h2 : (mkKey k.rst k.inValid k.stCode 0).getLsbD j = (if j < 8 then false else k.getLsbD j) := by
    have e : mkKey k.rst k.inValid k.stCode 0 = BitVec.ofNat 14 (k.toNat / 2^8 * 2^8) := by
      apply BitVec.eq_of_toNat_eq
      have h := mkKey_toNat k.rst k.inValid k.stCode k.data
      have h' := mkKey_toNat k.rst k.inValid k.stCode 0
      have hd := k.data.isLt
      rw [mkKey_fields] at h
      rw [h', BitVec.toNat_ofNat]
      simp at *
      omega
    rw [e, BitVec.getLsbD, BitVec.toNat_ofNat, Nat.mod_eq_of_lt (by omega), Nat.testBit_mul_two_pow, Nat.testBit_div_two_pow]
    by_cases h8 : j < 8
    · simp [h8]
    · simp [h8, Nat.sub_add_cancel (Nat.not_lt.mp h8), Nat.not_lt.mp h8, BitVec.getLsbD]
  rw [h2]
  interval_cases j <;> first | exact Bool.and_false _ | exact Bool.and_true _
end Sys2Proof
end

