-- ==== Sys2Proof/Laws/Memory.lean ====
section
/-! SUPPORT. The payload buffer: read after write, and that every memory operation keeps the canonical form. -/

namespace Sys2Proof.Machine

@[simp] theorem Memory.read_nil (a : Nat) : Memory.read [] a = Memory.unlisted := rfl

theorem Memory.read_cons (k : Nat) (v : Byte) (m : Memory) (a : Nat) :
    Memory.read ((k, v) :: m) a = if k = a then v else Memory.read m a := rfl

theorem Memory.wfFrom_cons {lo k : Nat} {v : Byte} {m : Memory} :
    Memory.wfFrom lo ((k, v) :: m) = true ↔
      lo ≤ k ∧ k < maxPayload ∧ v ≠ Memory.unlisted ∧ Memory.wfFrom (k + 1) m = true := by
  simp [Memory.wfFrom, and_assoc]

theorem Memory.wfFrom_mono {lo lo' : Nat} (h : lo' ≤ lo) : ∀ {m : Memory}, Memory.wfFrom lo m = true → Memory.wfFrom lo' m = true
  | [], _ => rfl
  | (_, _) :: _, hm => by
    rw [Memory.wfFrom_cons] at hm ⊢
    exact ⟨h.trans hm.1, hm.2⟩

/-- No cell is listed below the bound. -/
theorem Memory.read_below : ∀ {m : Memory} {lo a : Nat}, Memory.wfFrom lo m = true → a < lo → Memory.read m a = Memory.unlisted
  | [], _, _, _, _ => rfl
  | (k, v) :: m, lo, a, hm, ha => by
    rw [Memory.wfFrom_cons] at hm
    rw [Memory.read_cons, if_neg (by omega)]
    exact Memory.read_below hm.2.2.2 (by omega)

/-- A read after a write: the value at the index written, the old content elsewhere. -/
theorem Memory.read_write_from : ∀ {m : Memory} {lo : Nat} (a : Nat) (v : Byte) (a' : Nat), Memory.wfFrom lo m = true →
    Memory.read (Memory.write m a v) a' = if a' = a then v else Memory.read m a'
  | [], _, a, v, a', _ => by
    by_cases h : a' = a
    · by_cases hv : v = Memory.unlisted <;> simp [Memory.write, Memory.read_cons, hv, h]
    · by_cases hv : v = Memory.unlisted <;> simp [Memory.write, Memory.read_cons, hv, h, Ne.symm h]
  | (k, w) :: m, lo, a, v, a', hm => by
    have hm' := Memory.wfFrom_cons.mp hm
    rcases Nat.lt_trichotomy a k with h | h | h
    · have hk : Memory.read ((k, w) :: m) a = Memory.unlisted :=
        Memory.read_below (lo := k) (Memory.wfFrom_cons.mpr ⟨le_rfl, hm'.2⟩) h
      by_cases hv : v = Memory.unlisted
      · by_cases ha : a' = a
        · subst ha; simp [Memory.write, h, hv, hk]
        · simp [Memory.write, h, hv, ha]
      · simp [Memory.write, h, hv, Memory.read_cons (k := a), eq_comm]
    · subst h
      by_cases hv : v = Memory.unlisted
      · by_cases ha : a' = a
        · subst ha
          simp [Memory.write, hv, Memory.read_below hm'.2.2.2 (Nat.lt_succ_self a')]
        · simp [Memory.write, hv, ha, Memory.read_cons, Ne.symm ha]
      · by_cases ha : a' = a
        · simp [Memory.write, hv, ha, Memory.read_cons]
        · simp [Memory.write, hv, ha, Memory.read_cons, Ne.symm ha]
    · have ih := Memory.read_write_from a v a' hm'.2.2.2
      have h1 : ¬ a < k := by omega
      have h2 : ¬ a = k := by omega
      simp only [Memory.write, h1, h2, if_false, Memory.read_cons, ih]
      by_cases hk : k = a'
      · simp [hk]; omega
      · simp [hk]

theorem Memory.write_wfFrom : ∀ {m : Memory} {lo : Nat} {a : Nat} (v : Byte), lo ≤ a → a < maxPayload →
    Memory.wfFrom lo m = true → Memory.wfFrom lo (Memory.write m a v) = true
  | [], lo, a, v, hlo, ha, _ => by
    by_cases hv : v = Memory.unlisted
    · simp [Memory.write, hv, Memory.wfFrom]
    · simp [Memory.write, hv, Memory.wfFrom, hlo, ha]
  | (k, w) :: m, lo, a, v, hlo, ha, hm => by
    have hm' := Memory.wfFrom_cons.mp hm
    rcases Nat.lt_trichotomy a k with h | h | h
    · by_cases hv : v = Memory.unlisted
      · simpa [Memory.write, h, hv] using hm
      · simp only [Memory.write, h, hv, if_true, if_false]
        exact Memory.wfFrom_cons.mpr ⟨hlo, ha, hv, Memory.wfFrom_cons.mpr ⟨h, hm'.2⟩⟩
    · subst h
      by_cases hv : v = Memory.unlisted
      · simpa [Memory.write, hv] using Memory.wfFrom_mono (by omega) hm'.2.2.2
      · simp only [Memory.write, hv, lt_irrefl, if_true, if_false]
        exact Memory.wfFrom_cons.mpr ⟨hlo, ha, hv, hm'.2.2.2⟩
    · have h1 : ¬ a < k := by omega
      have h2 : ¬ a = k := by omega
      simp only [Memory.write, h1, h2, if_false]
      exact Memory.wfFrom_cons.mpr ⟨hm'.1, hm'.2.1, hm'.2.2.1, Memory.write_wfFrom v h ha hm'.2.2.2⟩

/-- A write inside the buffer keeps the canonical form. -/
theorem Memory.write_wf {m : Memory} {a : Nat} (v : Byte) (h : m.wf = true) (ha : a < maxPayload) : (m.write a v).wf = true :=
  Memory.write_wfFrom v (Nat.zero_le a) ha h

theorem Memory.read_write {m : Memory} (h : m.wf = true) (a : Nat) (v : Byte) (a' : Nat) :
    (m.write a v).read a' = if a' = a then v else m.read a' :=
  Memory.read_write_from a v a' h

theorem Memory.ofFn_wfFrom (f : Nat → Byte) : ∀ (n lo : Nat), lo + n ≤ maxPayload →
    Memory.wfFrom lo ((List.range' lo n).filterMap fun i => if f i = Memory.unlisted then none else some (i, f i)) = true
  | 0, _, _ => rfl
  | n + 1, lo, h => by
    have ih := Memory.ofFn_wfFrom f n (lo + 1) (by omega)
    rw [List.range'_succ]
    by_cases hf : f lo = Memory.unlisted
    · rw [List.filterMap_cons_none (by simp [hf])]
      exact Memory.wfFrom_mono (Nat.le_succ lo) ih
    · rw [List.filterMap_cons_some (b := (lo, f lo)) (by simp [hf])]
      exact Memory.wfFrom_cons.mpr ⟨le_rfl, by omega, hf, ih⟩

/-- The buffer RESET leaves is in its canonical form, whatever its free values are. -/
theorem Memory.ofFn_wf (f : Nat → Byte) : (Memory.ofFn f).wf = true := by
  rw [Memory.ofFn, List.range_eq_range']
  exact Memory.ofFn_wfFrom f maxPayload 0 (by omega)

@[simp] theorem Memory.readList_length (m : Memory) (n : Nat) : (m.readList n).length = n := by simp [Memory.readList]

/-- The next cell of the buffer appends to the copy. -/
theorem Memory.readList_succ (m : Memory) (n : Nat) : m.readList (n + 1) = m.readList n ++ [m.read n] := by
  simp [Memory.readList, List.range_succ]

/-- A write at `n` changes no cell below `n`. -/
theorem Memory.readList_write {m : Memory} (h : m.wf = true) (n : Nat) (v : Byte) :
    (m.write n v).readList n = m.readList n := by
  refine List.map_congr_left fun a ha => ?_
  rw [Memory.read_write h, if_neg (by have := List.mem_range.mp ha; omega)]

/-- Storing the next payload byte appends it to the copy (R91, R92). -/
theorem Memory.readList_write_succ {m : Memory} (h : m.wf = true) (n : Nat) (v : Byte) :
    (m.write n v).readList (n + 1) = m.readList n ++ [v] := by
  rw [Memory.readList_succ, Memory.readList_write h, Memory.read_write h, if_pos rfl]

end Sys2Proof.Machine
end

