-- ==== Sys2Proof/Laws/State.lean ====
section
/-! SUPPORT. One lemma per field for every primitive update of the state, true by rfl; the derived operations unfold into the
primitive ones. -/

namespace Sys2Proof.Machine

section
variable (s : State) (t : ParserState)

@[simp] theorem State.goto_cfg : (s.goto t).cfg = s.cfg := rfl
@[simp] theorem State.goto_st : (s.goto t).st = t := rfl
@[simp] theorem State.goto_len : (s.goto t).len = s.len := rfl
@[simp] theorem State.goto_msgid : (s.goto t).msgid = s.msgid := rfl
@[simp] theorem State.goto_src : (s.goto t).src = s.src := rfl
@[simp] theorem State.goto_dst : (s.goto t).dst = s.dst := rfl
@[simp] theorem State.goto_cnt : (s.goto t).cnt = s.cnt := rfl
@[simp] theorem State.goto_acc : (s.goto t).acc = s.acc := rfl
@[simp] theorem State.goto_rxck : (s.goto t).rxck = s.rxck := rfl
@[simp] theorem State.goto_pay : (s.goto t).pay = s.pay := rfl
@[simp] theorem State.goto_event : (s.goto t).event = s.event := rfl
@[simp] theorem State.goto_input : (s.goto t).input = s.input := rfl
@[simp] theorem State.goto_draws : (s.goto t).draws = s.draws := rfl
@[simp] theorem State.goto_readable : (s.goto t).readable = s.readable := rfl

end

section
variable (s : State) (e : Event)

@[simp] theorem State.emit_cfg : (s.emit e).cfg = s.cfg := rfl
@[simp] theorem State.emit_st : (s.emit e).st = s.st := rfl
@[simp] theorem State.emit_len : (s.emit e).len = s.len := rfl
@[simp] theorem State.emit_msgid : (s.emit e).msgid = s.msgid := rfl
@[simp] theorem State.emit_src : (s.emit e).src = s.src := rfl
@[simp] theorem State.emit_dst : (s.emit e).dst = s.dst := rfl
@[simp] theorem State.emit_cnt : (s.emit e).cnt = s.cnt := rfl
@[simp] theorem State.emit_acc : (s.emit e).acc = s.acc := rfl
@[simp] theorem State.emit_rxck : (s.emit e).rxck = s.rxck := rfl
@[simp] theorem State.emit_pay : (s.emit e).pay = s.pay := rfl
@[simp] theorem State.emit_event : (s.emit e).event = e := rfl
@[simp] theorem State.emit_input : (s.emit e).input = s.input := rfl
@[simp] theorem State.emit_draws : (s.emit e).draws = s.draws := rfl
@[simp] theorem State.emit_readable : (s.emit e).readable = s.readable := rfl

end

section
variable (s : State) (v : Word16)

@[simp] theorem State.setLen_cfg : (s.setLen v).cfg = s.cfg := rfl
@[simp] theorem State.setLen_st : (s.setLen v).st = s.st := rfl
@[simp] theorem State.setLen_len : (s.setLen v).len = v := rfl
@[simp] theorem State.setLen_msgid : (s.setLen v).msgid = s.msgid := rfl
@[simp] theorem State.setLen_src : (s.setLen v).src = s.src := rfl
@[simp] theorem State.setLen_dst : (s.setLen v).dst = s.dst := rfl
@[simp] theorem State.setLen_cnt : (s.setLen v).cnt = s.cnt := rfl
@[simp] theorem State.setLen_acc : (s.setLen v).acc = s.acc := rfl
@[simp] theorem State.setLen_rxck : (s.setLen v).rxck = s.rxck := rfl
@[simp] theorem State.setLen_pay : (s.setLen v).pay = s.pay := rfl
@[simp] theorem State.setLen_event : (s.setLen v).event = s.event := rfl
@[simp] theorem State.setLen_input : (s.setLen v).input = s.input := rfl
@[simp] theorem State.setLen_draws : (s.setLen v).draws = s.draws := rfl
@[simp] theorem State.setLen_readable : (s.setLen v).readable = s.readable := rfl

end

section
variable (s : State) (v : Word16)

@[simp] theorem State.setMsgid_cfg : (s.setMsgid v).cfg = s.cfg := rfl
@[simp] theorem State.setMsgid_st : (s.setMsgid v).st = s.st := rfl
@[simp] theorem State.setMsgid_len : (s.setMsgid v).len = s.len := rfl
@[simp] theorem State.setMsgid_msgid : (s.setMsgid v).msgid = v := rfl
@[simp] theorem State.setMsgid_src : (s.setMsgid v).src = s.src := rfl
@[simp] theorem State.setMsgid_dst : (s.setMsgid v).dst = s.dst := rfl
@[simp] theorem State.setMsgid_cnt : (s.setMsgid v).cnt = s.cnt := rfl
@[simp] theorem State.setMsgid_acc : (s.setMsgid v).acc = s.acc := rfl
@[simp] theorem State.setMsgid_rxck : (s.setMsgid v).rxck = s.rxck := rfl
@[simp] theorem State.setMsgid_pay : (s.setMsgid v).pay = s.pay := rfl
@[simp] theorem State.setMsgid_event : (s.setMsgid v).event = s.event := rfl
@[simp] theorem State.setMsgid_input : (s.setMsgid v).input = s.input := rfl
@[simp] theorem State.setMsgid_draws : (s.setMsgid v).draws = s.draws := rfl
@[simp] theorem State.setMsgid_readable : (s.setMsgid v).readable = s.readable := rfl

end

section
variable (s : State) (v : Byte)

@[simp] theorem State.setSrc_cfg : (s.setSrc v).cfg = s.cfg := rfl
@[simp] theorem State.setSrc_st : (s.setSrc v).st = s.st := rfl
@[simp] theorem State.setSrc_len : (s.setSrc v).len = s.len := rfl
@[simp] theorem State.setSrc_msgid : (s.setSrc v).msgid = s.msgid := rfl
@[simp] theorem State.setSrc_src : (s.setSrc v).src = v := rfl
@[simp] theorem State.setSrc_dst : (s.setSrc v).dst = s.dst := rfl
@[simp] theorem State.setSrc_cnt : (s.setSrc v).cnt = s.cnt := rfl
@[simp] theorem State.setSrc_acc : (s.setSrc v).acc = s.acc := rfl
@[simp] theorem State.setSrc_rxck : (s.setSrc v).rxck = s.rxck := rfl
@[simp] theorem State.setSrc_pay : (s.setSrc v).pay = s.pay := rfl
@[simp] theorem State.setSrc_event : (s.setSrc v).event = s.event := rfl
@[simp] theorem State.setSrc_input : (s.setSrc v).input = s.input := rfl
@[simp] theorem State.setSrc_draws : (s.setSrc v).draws = s.draws := rfl
@[simp] theorem State.setSrc_readable : (s.setSrc v).readable = s.readable := rfl

end

section
variable (s : State) (v : Byte)

@[simp] theorem State.setDst_cfg : (s.setDst v).cfg = s.cfg := rfl
@[simp] theorem State.setDst_st : (s.setDst v).st = s.st := rfl
@[simp] theorem State.setDst_len : (s.setDst v).len = s.len := rfl
@[simp] theorem State.setDst_msgid : (s.setDst v).msgid = s.msgid := rfl
@[simp] theorem State.setDst_src : (s.setDst v).src = s.src := rfl
@[simp] theorem State.setDst_dst : (s.setDst v).dst = v := rfl
@[simp] theorem State.setDst_cnt : (s.setDst v).cnt = s.cnt := rfl
@[simp] theorem State.setDst_acc : (s.setDst v).acc = s.acc := rfl
@[simp] theorem State.setDst_rxck : (s.setDst v).rxck = s.rxck := rfl
@[simp] theorem State.setDst_pay : (s.setDst v).pay = s.pay := rfl
@[simp] theorem State.setDst_event : (s.setDst v).event = s.event := rfl
@[simp] theorem State.setDst_input : (s.setDst v).input = s.input := rfl
@[simp] theorem State.setDst_draws : (s.setDst v).draws = s.draws := rfl
@[simp] theorem State.setDst_readable : (s.setDst v).readable = s.readable := rfl

end

section
variable (s : State) (v : Byte)

@[simp] theorem State.setCnt_cfg : (s.setCnt v).cfg = s.cfg := rfl
@[simp] theorem State.setCnt_st : (s.setCnt v).st = s.st := rfl
@[simp] theorem State.setCnt_len : (s.setCnt v).len = s.len := rfl
@[simp] theorem State.setCnt_msgid : (s.setCnt v).msgid = s.msgid := rfl
@[simp] theorem State.setCnt_src : (s.setCnt v).src = s.src := rfl
@[simp] theorem State.setCnt_dst : (s.setCnt v).dst = s.dst := rfl
@[simp] theorem State.setCnt_cnt : (s.setCnt v).cnt = v := rfl
@[simp] theorem State.setCnt_acc : (s.setCnt v).acc = s.acc := rfl
@[simp] theorem State.setCnt_rxck : (s.setCnt v).rxck = s.rxck := rfl
@[simp] theorem State.setCnt_pay : (s.setCnt v).pay = s.pay := rfl
@[simp] theorem State.setCnt_event : (s.setCnt v).event = s.event := rfl
@[simp] theorem State.setCnt_input : (s.setCnt v).input = s.input := rfl
@[simp] theorem State.setCnt_draws : (s.setCnt v).draws = s.draws := rfl
@[simp] theorem State.setCnt_readable : (s.setCnt v).readable = s.readable := rfl

end

section
variable (s : State) (v : Word16)

@[simp] theorem State.setAcc_cfg : (s.setAcc v).cfg = s.cfg := rfl
@[simp] theorem State.setAcc_st : (s.setAcc v).st = s.st := rfl
@[simp] theorem State.setAcc_len : (s.setAcc v).len = s.len := rfl
@[simp] theorem State.setAcc_msgid : (s.setAcc v).msgid = s.msgid := rfl
@[simp] theorem State.setAcc_src : (s.setAcc v).src = s.src := rfl
@[simp] theorem State.setAcc_dst : (s.setAcc v).dst = s.dst := rfl
@[simp] theorem State.setAcc_cnt : (s.setAcc v).cnt = s.cnt := rfl
@[simp] theorem State.setAcc_acc : (s.setAcc v).acc = v := rfl
@[simp] theorem State.setAcc_rxck : (s.setAcc v).rxck = s.rxck := rfl
@[simp] theorem State.setAcc_pay : (s.setAcc v).pay = s.pay := rfl
@[simp] theorem State.setAcc_event : (s.setAcc v).event = s.event := rfl
@[simp] theorem State.setAcc_input : (s.setAcc v).input = s.input := rfl
@[simp] theorem State.setAcc_draws : (s.setAcc v).draws = s.draws := rfl
@[simp] theorem State.setAcc_readable : (s.setAcc v).readable = s.readable := rfl

end

section
variable (s : State) (v : Word16)

@[simp] theorem State.setRxck_cfg : (s.setRxck v).cfg = s.cfg := rfl
@[simp] theorem State.setRxck_st : (s.setRxck v).st = s.st := rfl
@[simp] theorem State.setRxck_len : (s.setRxck v).len = s.len := rfl
@[simp] theorem State.setRxck_msgid : (s.setRxck v).msgid = s.msgid := rfl
@[simp] theorem State.setRxck_src : (s.setRxck v).src = s.src := rfl
@[simp] theorem State.setRxck_dst : (s.setRxck v).dst = s.dst := rfl
@[simp] theorem State.setRxck_cnt : (s.setRxck v).cnt = s.cnt := rfl
@[simp] theorem State.setRxck_acc : (s.setRxck v).acc = s.acc := rfl
@[simp] theorem State.setRxck_rxck : (s.setRxck v).rxck = v := rfl
@[simp] theorem State.setRxck_pay : (s.setRxck v).pay = s.pay := rfl
@[simp] theorem State.setRxck_event : (s.setRxck v).event = s.event := rfl
@[simp] theorem State.setRxck_input : (s.setRxck v).input = s.input := rfl
@[simp] theorem State.setRxck_draws : (s.setRxck v).draws = s.draws := rfl
@[simp] theorem State.setRxck_readable : (s.setRxck v).readable = s.readable := rfl

end

section
variable (s : State) (m : Memory)

@[simp] theorem State.setPay_cfg : (s.setPay m).cfg = s.cfg := rfl
@[simp] theorem State.setPay_st : (s.setPay m).st = s.st := rfl
@[simp] theorem State.setPay_len : (s.setPay m).len = s.len := rfl
@[simp] theorem State.setPay_msgid : (s.setPay m).msgid = s.msgid := rfl
@[simp] theorem State.setPay_src : (s.setPay m).src = s.src := rfl
@[simp] theorem State.setPay_dst : (s.setPay m).dst = s.dst := rfl
@[simp] theorem State.setPay_cnt : (s.setPay m).cnt = s.cnt := rfl
@[simp] theorem State.setPay_acc : (s.setPay m).acc = s.acc := rfl
@[simp] theorem State.setPay_rxck : (s.setPay m).rxck = s.rxck := rfl
@[simp] theorem State.setPay_pay : (s.setPay m).pay = m := rfl
@[simp] theorem State.setPay_event : (s.setPay m).event = s.event := rfl
@[simp] theorem State.setPay_input : (s.setPay m).input = s.input := rfl
@[simp] theorem State.setPay_draws : (s.setPay m).draws = s.draws := rfl
@[simp] theorem State.setPay_readable : (s.setPay m).readable = s.readable := rfl

end

section
variable (s : State) (n : Nat)

@[simp] theorem State.setReadable_cfg : (s.setReadable n).cfg = s.cfg := rfl
@[simp] theorem State.setReadable_st : (s.setReadable n).st = s.st := rfl
@[simp] theorem State.setReadable_len : (s.setReadable n).len = s.len := rfl
@[simp] theorem State.setReadable_msgid : (s.setReadable n).msgid = s.msgid := rfl
@[simp] theorem State.setReadable_src : (s.setReadable n).src = s.src := rfl
@[simp] theorem State.setReadable_dst : (s.setReadable n).dst = s.dst := rfl
@[simp] theorem State.setReadable_cnt : (s.setReadable n).cnt = s.cnt := rfl
@[simp] theorem State.setReadable_acc : (s.setReadable n).acc = s.acc := rfl
@[simp] theorem State.setReadable_rxck : (s.setReadable n).rxck = s.rxck := rfl
@[simp] theorem State.setReadable_pay : (s.setReadable n).pay = s.pay := rfl
@[simp] theorem State.setReadable_event : (s.setReadable n).event = s.event := rfl
@[simp] theorem State.setReadable_input : (s.setReadable n).input = s.input := rfl
@[simp] theorem State.setReadable_draws : (s.setReadable n).draws = s.draws := rfl
@[simp] theorem State.setReadable_readable : (s.setReadable n).readable = n := rfl

end

section
variable (s : State)

@[simp] theorem State.advance_cfg : s.advance.cfg = s.cfg := rfl
@[simp] theorem State.advance_st : s.advance.st = s.st := rfl
@[simp] theorem State.advance_len : s.advance.len = s.len := rfl
@[simp] theorem State.advance_msgid : s.advance.msgid = s.msgid := rfl
@[simp] theorem State.advance_src : s.advance.src = s.src := rfl
@[simp] theorem State.advance_dst : s.advance.dst = s.dst := rfl
@[simp] theorem State.advance_cnt : s.advance.cnt = s.cnt := rfl
@[simp] theorem State.advance_acc : s.advance.acc = s.acc := rfl
@[simp] theorem State.advance_rxck : s.advance.rxck = s.rxck := rfl
@[simp] theorem State.advance_pay : s.advance.pay = s.pay := rfl
@[simp] theorem State.advance_event : s.advance.event = s.event := rfl
@[simp] theorem State.advance_input : s.advance.input = s.input.tail := rfl
@[simp] theorem State.advance_draws : s.advance.draws = s.draws := rfl
@[simp] theorem State.advance_readable : s.advance.readable = s.readable := rfl

end

section
variable (s : State) (p : Pins)

@[simp] theorem State.offered_cfg : (s.offered p).cfg = s.cfg := rfl
@[simp] theorem State.offered_st : (s.offered p).st = s.st := rfl
@[simp] theorem State.offered_len : (s.offered p).len = s.len := rfl
@[simp] theorem State.offered_msgid : (s.offered p).msgid = s.msgid := rfl
@[simp] theorem State.offered_src : (s.offered p).src = s.src := rfl
@[simp] theorem State.offered_dst : (s.offered p).dst = s.dst := rfl
@[simp] theorem State.offered_cnt : (s.offered p).cnt = s.cnt := rfl
@[simp] theorem State.offered_acc : (s.offered p).acc = s.acc := rfl
@[simp] theorem State.offered_rxck : (s.offered p).rxck = s.rxck := rfl
@[simp] theorem State.offered_pay : (s.offered p).pay = s.pay := rfl
@[simp] theorem State.offered_event : (s.offered p).event = s.event := rfl
@[simp] theorem State.offered_input : (s.offered p).input = p :: s.input := rfl
@[simp] theorem State.offered_draws : (s.offered p).draws = s.draws := rfl
@[simp] theorem State.offered_readable : (s.offered p).readable = s.readable := rfl

end

section
variable (s : State)

@[simp] theorem State.quiet_eq : s.quiet = s.emit .none := rfl
@[simp] theorem State.accLoad_eq : s.accLoad = s.setAcc (ckSeed s.cfg) := rfl
@[simp] theorem State.accAdd_eq (b : Byte) : s.accAdd b = s.setAcc (s.acc + zext16 b) := rfl
@[simp] theorem State.takeAbort_eq (e : Event) : s.takeAbort e = ((s.goto .seeking).setReadable 0).emit e := rfl
@[simp] theorem State.headerStep_eq (b : Byte) (t : ParserState) :
    s.headerStep b t = ((s.accAdd b).goto t).emit .none := rfl
@[simp] theorem State.takeDst_eq (b : Byte) : s.takeDst b = (s.setDst b).accAdd b := rfl

@[simp] theorem State.unspecify_cfg : s.unspecify.cfg = s.cfg := rfl
@[simp] theorem State.unspecify_st : s.unspecify.st = .seeking := rfl
@[simp] theorem State.unspecify_event : s.unspecify.event = .none := rfl
@[simp] theorem State.unspecify_input : s.unspecify.input = s.input := rfl
@[simp] theorem State.unspecify_readable : s.unspecify.readable = 0 := rfl
@[simp] theorem State.unspecify_draws : s.unspecify.draws = s.draws + 1 := rfl
@[simp] theorem State.unspecify_pay : s.unspecify.pay = Memory.ofFn (Config.freePay s.draws) := rfl

end

end Sys2Proof.Machine
end

