-- ==== Sys2Proof/Laws/Word.lean ====
section
/-! SUPPORT. The operand forms: what the two halves of a joined word are, and their unsigned values (R36). -/

namespace Sys2Proof.Machine

theorem lowByte_toNat (w : Word16) : (lowByte w).toNat = w.toNat % 256 := by
  simp [lowByte, BitVec.extractLsb'_toNat]

theorem highByte_toNat (w : Word16) : (highByte w).toNat = w.toNat / 256 := by
  have := w.isLt
  simp only [highByte, BitVec.extractLsb'_toNat, Nat.shiftRight_eq_div_pow]
  omega

theorem joinBytes_toNat (hi lo : Byte) : (joinBytes hi lo).toNat = 256 * hi.toNat + lo.toNat := by
  have := lo.isLt
  rw [joinBytes, BitVec.toNat_append, ← Nat.shiftLeft_add_eq_or_of_lt this, Nat.shiftLeft_eq]
  omega

@[simp] theorem lowByte_joinBytes (hi lo : Byte) : lowByte (joinBytes hi lo) = lo := by
  have := lo.isLt
  apply BitVec.eq_of_toNat_eq
  rw [lowByte_toNat, joinBytes_toNat]
  omega

@[simp] theorem highByte_joinBytes (hi lo : Byte) : highByte (joinBytes hi lo) = hi := by
  have := lo.isLt
  apply BitVec.eq_of_toNat_eq
  rw [highByte_toNat, joinBytes_toNat]
  omega

@[simp] theorem joinBytes_high_low (w : Word16) : joinBytes (highByte w) (lowByte w) = w := by
  apply BitVec.eq_of_toNat_eq
  rw [joinBytes_toNat, highByte_toNat, lowByte_toNat]
  omega

/-- Two 16-bit words with the same halves are equal. -/
theorem word_ext {v w : Word16} (hl : lowByte v = lowByte w) (hh : highByte v = highByte w) : v = w := by
  rw [← joinBytes_high_low v, ← joinBytes_high_low w, hl, hh]

@[simp] theorem lowByte_withLowByte (w : Word16) (b : Byte) : lowByte (withLowByte w b) = b := by simp [withLowByte]
@[simp] theorem highByte_withLowByte (w : Word16) (b : Byte) : highByte (withLowByte w b) = highByte w := by
  simp [withLowByte]
@[simp] theorem lowByte_withHighByte (w : Word16) (b : Byte) : lowByte (withHighByte w b) = lowByte w := by
  simp [withHighByte]
@[simp] theorem highByte_withHighByte (w : Word16) (b : Byte) : highByte (withHighByte w b) = b := by
  simp [withHighByte]

theorem zext16_toNat (b : Byte) : (zext16 b).toNat = b.toNat := by
  have := b.isLt
  rw [zext16, BitVec.toNat_setWidth]
  omega

/-- `ACC.ADD` on unsigned values: the sum modulo 2^16 (R68). -/
theorem accAdd_toNat (a : Word16) (b : Byte) : (a + zext16 b).toNat = (a.toNat + b.toNat) % 65536 := by
  rw [BitVec.toNat_add, zext16_toNat]

/-- `CK_SEED` never needs its reduction (R67). -/
theorem ckSeed_toNat (cfg : Config) : (ckSeed cfg).toNat = cfg.marker0.toNat + cfg.marker1.toNat := by
  have := cfg.marker0.isLt
  have := cfg.marker1.isLt
  rw [ckSeed, BitVec.toNat_add, zext16_toNat, zext16_toNat]
  omega

/-- `CNT + 1` below the wrap (R19). -/
theorem cntSucc_toNat {cnt : Byte} (h : cnt.toNat < 255) : (cntSucc cnt).toNat = cnt.toNat + 1 := by
  rw [cntSucc, zext16_toNat, BitVec.toNat_add]
  simp
  omega

end Sys2Proof.Machine
end

