-- ==== Sys2Proof/Laws/Ops.lean ====
section
/-! SUPPORT. For each shared operation that can stop, once everything it can do; and the sums of bytes. -/

namespace Sys2Proof.Machine

/-- Everything the payload store can do when it answers a state (R91, R92). -/
theorem State.storePayload_ok {s t : State} {b : Byte} (h : s.storePayload b = .ok t) :
    s.cnt.toNat < maxPayload ∧
      t = { s with pay := s.pay.write s.cnt.toNat b, acc := s.acc + zext16 b, cnt := s.cnt + 1 } := by
  unfold State.storePayload at h
  split at h
  · exact ⟨‹_›, (Except.ok.inj h).symm⟩
  · cases h

theorem State.storePayload_of_lt {s : State} {b : Byte} (h : s.cnt.toNat < maxPayload) :
    s.storePayload b =
      .ok { s with pay := s.pay.write s.cnt.toNat b, acc := s.acc + zext16 b, cnt := s.cnt + 1 } := if_pos h

theorem State.storePayload_of_ge {s : State} {b : Byte} (h : maxPayload ≤ s.cnt.toNat) :
    s.storePayload b = .error (.payIndexOutOfRange s.cnt.toNat) := if_neg (by omega)

/-- Everything the payload copy can do when it answers a list (R94). -/
theorem State.copyPayload_ok {s : State} {p : List Byte} (h : s.copyPayload = .ok p) :
    s.len.toNat ≤ maxPayload ∧ p = s.pay.readList s.len.toNat := by
  unfold State.copyPayload at h
  split at h
  · exact ⟨‹_›, (Except.ok.inj h).symm⟩
  · cases h

theorem State.copyPayload_of_le {s : State} (h : s.len.toNat ≤ maxPayload) :
    s.copyPayload = .ok (s.pay.readList s.len.toNat) := if_pos h

theorem State.copyPayload_of_gt {s : State} (h : maxPayload < s.len.toNat) :
    s.copyPayload = .error (.payIndexOutOfRange maxPayload) := if_neg (by omega)

@[simp] theorem byteSum_nil : byteSum [] = 0 := rfl
@[simp] theorem byteSum_cons (b : Byte) (bs : List Byte) : byteSum (b :: bs) = b.toNat + byteSum bs := rfl

@[simp] theorem byteSum_append : ∀ xs ys : List Byte, byteSum (xs ++ ys) = byteSum xs + byteSum ys
  | [], ys => by simp
  | x :: xs, ys => by simp [byteSum_append xs ys, Nat.add_assoc]

/-- A sum of bytes is at most 255 for each of them (R72). -/
theorem byteSum_le : ∀ xs : List Byte, byteSum xs ≤ 255 * xs.length
  | [] => le_rfl
  | x :: xs => by
    have := byteSum_le xs
    have := x.isLt
    rw [byteSum_cons, List.length_cons]
    omega

theorem paySum_le (m : Memory) (n : Nat) : paySum m n ≤ 255 * n := by
  have := byteSum_le (m.readList n)
  rwa [Memory.readList_length] at this

theorem paySum_zero (m : Memory) : paySum m 0 = 0 := rfl

/-- Storing the next payload byte adds it to the sum of the buffer. -/
theorem paySum_write_succ {m : Memory} (h : m.wf = true) (n : Nat) (v : Byte) :
    paySum (m.write n v) (n + 1) = paySum m n + v.toNat := by
  simp [paySum, Memory.readList_write_succ h]

theorem checksum_toNat (bs : List Byte) : (checksum bs).toNat = byteSum bs % 65536 := by
  rw [checksum, BitVec.toNat_ofNat]

end Sys2Proof.Machine
end

