-- ==== Sys2Proof/Laws/PerInstr.lean ====
section
/-! SUPPORT. Facts about each operation as syntax, one lemma per constructor. -/

namespace Sys2Proof.Laws.KeyPattern

/-- The key of the operation has the bits its row of the opcode table fixes (R62). -/
def Statement (i : Instr) : Prop := encode i &&& i.keyMask = i.keyMatch

theorem byteRow (c : BitVec 4) (b : Byte) : mkKey false true c b &&& 0x3F00 = mkKey false true c 0 := by
  rw [key_and_state, mkKey_rst, mkKey_inValid, mkKey_stCode]

theorem reset : Statement .reset := rfl
theorem idle : Statement .idle := rfl
theorem seekMiss (b : Byte) : Statement (.seekMiss b) := (byteRow 0 b).trans rfl
theorem seekHit (b : Byte) : Statement (.seekHit b) := (byteRow 0 b).trans rfl
theorem syncHit (b : Byte) : Statement (.syncHit b) := (byteRow 1 b).trans rfl
theorem syncMiss (b : Byte) : Statement (.syncMiss b) := (byteRow 1 b).trans rfl
theorem lenLo (b : Byte) : Statement (.lenLo b) := (byteRow 2 b).trans rfl
theorem lenHi (b : Byte) : Statement (.lenHi b) := (byteRow 3 b).trans rfl
theorem idLo (b : Byte) : Statement (.idLo b) := (byteRow 4 b).trans rfl
theorem idHi (b : Byte) : Statement (.idHi b) := (byteRow 5 b).trans rfl
theorem src (b : Byte) : Statement (.src b) := (byteRow 6 b).trans rfl
theorem dstDrop (b : Byte) : Statement (.dstDrop b) := (byteRow 7 b).trans rfl
theorem dstZero (b : Byte) : Statement (.dstZero b) := (byteRow 7 b).trans rfl
theorem dstPay (b : Byte) : Statement (.dstPay b) := (byteRow 7 b).trans rfl
theorem payMore (b : Byte) : Statement (.payMore b) := (byteRow 8 b).trans rfl
theorem payLast (b : Byte) : Statement (.payLast b) := (byteRow 8 b).trans rfl
theorem ckLo (b : Byte) : Statement (.ckLo b) := (byteRow 9 b).trans rfl
theorem ckOk (b : Byte) : Statement (.ckOk b) := (byteRow 10 b).trans rfl
theorem ckBad (b : Byte) : Statement (.ckBad b) := (byteRow 10 b).trans rfl

end Sys2Proof.Laws.KeyPattern
end

