-- ==== Sys2Proof/Laws/Step.lean ====
section
/-! SUPPORT. Said once: what a cycle can do. `ByteStep b s t` lists the 17 byte operations with their conditions and their
effects; `step_cases` says that a step which answers a next state is RESET, IDLE or one of them. -/

namespace Sys2Proof.Machine

@[simp] theorem State.offered_advance (s : State) (p : Pins) : (s.offered p).advance = s := rfl
@[simp] theorem State.offered_selRegs (s : State) (p : Pins) : (s.offered p).selRegs = s.selRegs := rfl
@[simp] theorem State.offered_pins (s : State) (p : Pins) : (s.offered p).pins = p := rfl

/-- What the machine does with the operation selected for a byte. -/
def runSelected (s : State) : Except DecodeError Instr → Host.Outcome State Fault Refusal
  | .ok i    => exec i s
  | .error e => .refused (.noOperation e)

/-- A step, by the pins: RESET, IDLE, or the row of the byte (R61, R62). -/
theorem step_eq (s : State) :
    step s = if s.pins.rst then .next s.advance.unspecify
      else if s.pins.inValid then runSelected s.advance (selectByte s.selRegs s.st s.pins.inData)
      else .next (s.advance.emit .none) := by
  rw [step, State.key, decode_mkKey]
  cases s.pins.rst
  · cases s.pins.inValid
    · rfl
    · simp only [Bool.false_eq_true, if_false, if_true]
      cases selectByte s.selRegs s.st s.pins.inData <;> rfl
  · rfl

theorem step_offer (s : State) (b : Byte) :
    step (s.offered (Pins.offer b)) = runSelected s (selectByte s.selRegs s.st b) := by
  rw [step_eq]
  rfl

theorem step_offer_reset (s : State) (v : Bool) (b : Byte) :
    step (s.offered { rst := true, inValid := v, inData := b }) = .next s.unspecify := by
  rw [step_eq]
  rfl

theorem step_offer_idle (s : State) (b : Byte) :
    step (s.offered { rst := false, inValid := false, inData := b }) = .next (s.emit .none) := by
  rw [step_eq]
  rfl

/-- One byte consumed (R79 to R95): each operation with its condition and its whole effect. -/
inductive ByteStep (b : Byte) (s : State) : State → Prop where
  | seekMiss : s.st = .seeking → b ≠ s.cfg.marker0 → ByteStep b s { s with st := .seeking, event := .none }
  | seekHit : s.st = .seeking → b = s.cfg.marker0 → ByteStep b s { s with st := .matchedFirstMarker, event := .none }
  | syncHit : s.st = .matchedFirstMarker → b = s.cfg.marker1 →
      ByteStep b s { s with acc := ckSeed s.cfg, cnt := 0, st := .readingLength0, event := .none }
  | syncMiss : s.st = .matchedFirstMarker → b ≠ s.cfg.marker1 →
      ByteStep b s { s with st := .seeking, event := .none, readable := 0 }
  | lenLo : s.st = .readingLength0 → ByteStep b s
      { s with len := withLowByte s.len b, acc := s.acc + zext16 b, st := .readingLength1, event := .none }
  | lenHi : s.st = .readingLength1 → ByteStep b s
      { s with len := withHighByte s.len b, acc := s.acc + zext16 b, st := .readingMessageId0, event := .none }
  | idLo : s.st = .readingMessageId0 → ByteStep b s
      { s with msgid := withLowByte s.msgid b, acc := s.acc + zext16 b, st := .readingMessageId1, event := .none }
  | idHi : s.st = .readingMessageId1 → ByteStep b s
      { s with msgid := withHighByte s.msgid b, acc := s.acc + zext16 b, st := .readingSource, event := .none }
  | src : s.st = .readingSource → ByteStep b s
      { s with src := b, acc := s.acc + zext16 b, st := .readingDestination, event := .none }
  | dstDrop : s.st = .readingDestination → maxPayload < s.len.toNat → ByteStep b s
      { s with dst := b, acc := s.acc + zext16 b, st := .seeking, event := .none, readable := 0 }
  | dstZero : s.st = .readingDestination → s.len.toNat = 0 → ByteStep b s
      { s with dst := b, acc := s.acc + zext16 b, st := .readingChecksum0, event := .none }
  | dstPay : s.st = .readingDestination → 1 ≤ s.len.toNat → s.len.toNat ≤ maxPayload → ByteStep b s
      { s with dst := b, acc := s.acc + zext16 b, st := .readingPayload, event := .none }
  | payMore : s.st = .readingPayload → s.cnt.toNat < maxPayload → s.cnt.toNat + 1 < s.len.toNat → ByteStep b s
      { s with pay := s.pay.write s.cnt.toNat b, acc := s.acc + zext16 b, cnt := s.cnt + 1, st := .readingPayload,
               event := .none }
  | payLast : s.st = .readingPayload → s.cnt.toNat < maxPayload → s.cnt.toNat + 1 = s.len.toNat → ByteStep b s
      { s with pay := s.pay.write s.cnt.toNat b, acc := s.acc + zext16 b, cnt := s.cnt + 1, st := .readingChecksum0,
               event := .none }
  | ckLo : s.st = .readingChecksum0 → ByteStep b s
      { s with rxck := withLowByte s.rxck b, st := .readingChecksum1, event := .none }
  | ckOk : s.st = .readingChecksum1 → s.len.toNat ≤ maxPayload → s.rx b = s.acc → ByteStep b s
      { s with rxck := s.rx b, st := .seeking, readable := s.len.toNat,
               event := .frameOk (s.snapshot (s.pay.readList s.len.toNat) (s.rx b)) }
  | ckBad : s.st = .readingChecksum1 → s.rx b ≠ s.acc → ByteStep b s
      { s with rxck := s.rx b, st := .seeking, event := .malformed s.src, readable := 0 }

theorem cntSucc_lt_iff {s : State} (h : s.cnt.toNat < maxPayload) :
    cntSucc s.cnt < s.len ↔ s.cnt.toNat + 1 < s.len.toNat := by
  have h' : s.cnt.toNat < 128 := h
  rw [BitVec.lt_def, cntSucc_toNat (by omega)]

theorem cntSucc_eq_iff {s : State} (h : s.cnt.toNat < maxPayload) :
    cntSucc s.cnt = s.len ↔ s.cnt.toNat + 1 = s.len.toNat := by
  have h' : s.cnt.toNat < 128 := h
  rw [BitVec.toNat_eq, cntSucc_toNat (by omega)]

theorem word_eq_zero_iff (w : Word16) : w = 0 ↔ w.toNat = 0 := by
  rw [BitVec.toNat_eq]
  rfl

/-- A byte that is consumed performs one of the 17 operations. -/
theorem byteStep_of_run {s t : State} {b : Byte} (h : runSelected s (selectByte s.selRegs s.st b) = .next t) :
    ByteStep b s t := by
  unfold selectByte at h
  split at h
  next hs =>
    split at h
    · cases h; exact .seekHit hs ‹_›
    · cases h; exact .seekMiss hs ‹_›
  next hs =>
    split at h
    · cases h; exact .syncHit hs ‹_›
    · cases h; exact .syncMiss hs ‹_›
  next hs => cases h; exact .lenLo hs
  next hs => cases h; exact .lenHi hs
  next hs => cases h; exact .idLo hs
  next hs => cases h; exact .idHi hs
  next hs => cases h; exact .src hs
  next hs =>
    split at h
    · cases h; exact .dstDrop hs ‹_›
    · split at h
      next h0 => cases h; exact .dstZero hs ((word_eq_zero_iff _).mp h0)
      next h1 h0 =>
        cases h
        exact .dstPay hs (Nat.one_le_iff_ne_zero.mpr fun h' => h0 ((word_eq_zero_iff _).mpr h')) (Nat.not_lt.mp h1)
  next hs =>
    by_cases hc : s.cnt.toNat < maxPayload
    · split at h
      next hl =>
        simp only [runSelected, exec, execPayMore, State.storePayload_of_lt hc] at h
        cases h; exact .payMore hs hc ((cntSucc_lt_iff hc).mp hl)
      next =>
        split at h
        next hl =>
          simp only [runSelected, exec, execPayLast, State.storePayload_of_lt hc] at h
          cases h; exact .payLast hs hc ((cntSucc_eq_iff hc).mp hl)
        next => cases h
    · have hge := State.storePayload_of_ge (b := b) (Nat.not_lt.mp hc)
      split at h
      · simp only [runSelected, exec, execPayMore, hge] at h
        cases h
      · split at h
        · simp only [runSelected, exec, execPayLast, hge] at h
          cases h
        · cases h
  next hs => cases h; exact .ckLo hs
  next hs =>
    split at h
    next hc =>
      by_cases hl : s.len.toNat ≤ maxPayload
      · simp only [runSelected, exec, execCkOk, State.copyPayload_of_le hl] at h
        cases h; exact .ckOk hs hl hc
      · simp only [runSelected, exec, execCkOk, State.copyPayload_of_gt (Nat.not_le.mp hl)] at h
        cases h
    next hc => cases h; exact .ckBad hs hc

/-- Everything a step can do when it answers a next state. -/
theorem step_cases {s t : State} (h : step s = .next t) :
    (s.pins.rst = true ∧ t = s.advance.unspecify) ∨
      (s.pins.rst = false ∧ s.pins.inValid = false ∧ t = s.advance.emit .none) ∨
      (s.pins.rst = false ∧ s.pins.inValid = true ∧ ByteStep s.pins.inData s.advance t) := by
  rw [step_eq] at h
  cases hr : s.pins.rst with
  | true =>
    rw [hr, if_pos rfl] at h
    cases h; exact .inl ⟨rfl, rfl⟩
  | false =>
    cases hv : s.pins.inValid with
    | false =>
      simp only [hr, hv, Bool.false_eq_true, if_false] at h
      cases h; exact .inr (.inl ⟨rfl, rfl, rfl⟩)
    | true =>
      simp only [hr, hv, Bool.false_eq_true, if_false, if_true] at h
      exact .inr (.inr ⟨rfl, rfl, byteStep_of_run h⟩)

/-! ### Runs -/

@[simp] theorem runPins_nil (s : State) : runPins s [] = .next (s, []) := rfl

theorem runPins_cons_next {s t u : State} {p : Pins} {ps : List Pins} {es : List Event}
    (h : step (s.offered p) = .next t) (hr : runPins t ps = .next (u, es)) :
    runPins s (p :: ps) = .next (u, t.event :: es) := by
  simp [runPins, h, hr]

/-- What a run on one more input can do. -/
theorem runPins_cons_cases {s u : State} {p : Pins} {ps : List Pins} {es : List Event}
    (h : runPins s (p :: ps) = .next (u, es)) :
    ∃ t es', step (s.offered p) = .next t ∧ runPins t ps = .next (u, es') ∧ es = t.event :: es' := by
  rw [runPins] at h
  split at h
  next t ht =>
    split at h
    next u' es' hr => cases h; exact ⟨t, es', ht, hr, rfl⟩
    all_goals cases h
  all_goals cases h

/-- A run on two sequences is the run on the first and then on the second. -/
theorem runPins_append {s t u : State} {es es' : List Event} : ∀ {ps : List Pins} (qs : List Pins),
    runPins s ps = .next (t, es) → runPins t qs = .next (u, es') → runPins s (ps ++ qs) = .next (u, es ++ es')
  | [], qs, h, h' => by cases h; exact h'
  | p :: ps, qs, h, h' => by
    obtain ⟨v, es1, hv, hr, rfl⟩ := runPins_cons_cases h
    exact runPins_cons_next hv (runPins_append qs hr h')

/-- A run is a run on its first part and then on the rest. -/
theorem runPins_append_cases {s u : State} {es : List Event} : ∀ {ps qs : List Pins}, runPins s (ps ++ qs) = .next (u, es) →
    ∃ t es1 es2, runPins s ps = .next (t, es1) ∧ runPins t qs = .next (u, es2) ∧ es = es1 ++ es2
  | [], _, h => ⟨s, [], es, rfl, h, rfl⟩
  | p :: ps, qs, h => by
    obtain ⟨v, es', hv, hr, rfl⟩ := runPins_cons_cases h
    obtain ⟨t, es1, es2, h1, h2, rfl⟩ := runPins_append_cases hr
    exact ⟨t, v.event :: es1, es2, runPins_cons_next hv h1, h2, rfl⟩

@[simp] theorem feed_nil (s : State) : feed s [] = .next (s, []) := rfl

theorem feed_cons_next {s t u : State} {b : Byte} {bs : List Byte} {es : List Event}
    (h : step (s.offered (Pins.offer b)) = .next t) (hr : feed t bs = .next (u, es)) :
    feed s (b :: bs) = .next (u, t.event :: es) := runPins_cons_next h hr

/-- What feeding one more byte can do. -/
theorem feed_cons_cases {s u : State} {b : Byte} {bs : List Byte} {es : List Event} (h : feed s (b :: bs) = .next (u, es)) :
    ∃ t es', ByteStep b s t ∧ feed t bs = .next (u, es') ∧ es = t.event :: es' := by
  obtain ⟨t, es', ht, hr, rfl⟩ := runPins_cons_cases h
  rw [step_offer] at ht
  exact ⟨t, es', byteStep_of_run ht, hr, rfl⟩

theorem feed_append {s t u : State} {es es' : List Event} {xs : List Byte} (ys : List Byte)
    (h : feed s xs = .next (t, es)) (h' : feed t ys = .next (u, es')) : feed s (xs ++ ys) = .next (u, es ++ es') := by
  rw [feed, List.map_append]
  exact runPins_append _ h h'

/-- A run answers one event for each input. -/
theorem runPins_length {u : State} {es : List Event} : ∀ {ps : List Pins} {s : State}, runPins s ps = .next (u, es) →
    es.length = ps.length
  | [], _, h => by cases h; rfl
  | _ :: _, _, h => by
    obtain ⟨_, _, _, hr, rfl⟩ := runPins_cons_cases h
    simp [runPins_length hr]

/-! ### The operations of a run -/

@[simp] theorem operations_nil (s : State) : operations s [] = [] := rfl

theorem operations_cons {s t : State} {b : Byte} {bs : List Byte} {i : Instr} (hi : selectByte s.selRegs s.st b = .ok i)
    (h : step (s.offered (Pins.offer b)) = .next t) : operations s (b :: bs) = i :: operations t bs := by
  have hd : decode s.selRegs (s.offered (Pins.offer b)).key = .ok i := by
    rw [State.key, decode_mkKey]
    exact hi
  simp only [operations, hd, h]

/-- The operations of a run on two byte strings. -/
theorem operations_append {t : State} {ys : List Byte} : ∀ {xs : List Byte} {s : State} {es : List Event},
    feed s xs = .next (t, es) → operations s (xs ++ ys) = operations s xs ++ operations t ys
  | [], _, _, h => by cases h; rfl
  | b :: xs, s, es, h => by
    obtain ⟨u, es', hu, hr, rfl⟩ := runPins_cons_cases h
    have hu' := hu
    rw [step_offer] at hu'
    cases hi : selectByte s.selRegs s.st b with
    | error e => rw [hi] at hu'; cases hu'
    | ok i =>
      rw [List.cons_append, operations_cons hi hu, operations_cons hi hu, operations_append hr, List.cons_append]

end Sys2Proof.Machine
end

