-- ==== Sys2Proof/Tests/Slice0.lean ====
section
/-! SUPPORT. Tests and witnesses. Every expected value is the spec's: the key patterns of R62, the examples in R77 to R95, the
tables P1 to P7 and the vectors V11, V12, V13 of 95_test_vectors.md. A `witness_` theorem shows a concrete input that meets the
hypotheses of the statement of that name. -/

namespace Sys2Proof.Tests

open Sys2Proof Sys2Proof.Machine

/-- The next state of an outcome. -/
def next? : Host.Outcome State Fault Refusal → Option State
  | .next t => some t
  | .fault _ => none
  | .refused _ => none

/-- A state with the reference markers in the middle of a frame, no payload byte other than zero stored. -/
def mid (st : ParserState) (acc len msgid : Word16) (src dst cnt : Byte) : State :=
  { State.reset with st := st, acc := acc, len := len, msgid := msgid, src := src, dst := dst, cnt := cnt }

/-- V12 after its eight header bytes (P2, row 7). -/
def v12Header : State := mid .readingPayload 0x0109 4 0x0102 1 2 0
/-- V12 after three payload bytes (P2, row 10). -/
def v12Last : State := { mid .readingPayload 0x0352 4 0x0102 1 2 3 with pay := [(0, 0xDE), (1, 0xAD), (2, 0xBE)] }
/-- V12 before its checksum (P2, row 11). -/
def v12Ck0 : State :=
  { mid .readingChecksum0 0x0441 4 0x0102 1 2 4 with pay := [(0, 0xDE), (1, 0xAD), (2, 0xBE), (3, 0xEF)] }
/-- V12 before its last byte (P2, row 12). -/
def v12Ck1 : State := { v12Ck0 with st := .readingChecksum1, rxck := 0x0041 }
/-- V12 before its last byte with a wrong low checksum byte (R95's example). -/
def v12Bad : State := { v12Ck0 with st := .readingChecksum1, rxck := 0x0042 }

/-- V11. -/
def v11 : List Byte := [0xAA, 0x55, 0x00, 0x00, 0x01, 0x00, 0x10, 0x20, 0x30, 0x01]
/-- V12. -/
def v12 : List Byte := [0xAA, 0x55, 0x04, 0x00, 0x02, 0x01, 0x01, 0x02, 0xDE, 0xAD, 0xBE, 0xEF, 0x41, 0x04]

/-- The selecting registers with a given `LEN` and `CNT`. -/
def sel (len : Word16) (cnt : Byte) : SelRegs := { SelRegs.table with len := len, cnt := cnt }

/-! ### WellFormed: an ill-formed term for each check is refused -/

theorem test_wf_seekMiss_refuses_marker0 : wellFormed Config.reference (.seekMiss 0xAA) = false := by decide
theorem test_wf_seekHit_refuses_other : wellFormed Config.reference (.seekHit 0x55) = false := by decide
theorem test_wf_syncHit_refuses_other : wellFormed Config.reference (.syncHit 0xAA) = false := by decide
theorem test_wf_syncMiss_refuses_marker1 : wellFormed Config.reference (.syncMiss 0x55) = false := by decide
theorem test_wf_accepts :
    wellFormed Config.reference (.seekHit 0xAA) = true ∧ wellFormed Config.reference (.syncMiss 0xAA) = true ∧
      wellFormed Config.reference (.lenLo 0xAA) = true := by decide
/-- The length and count conditions at their boundaries (R88 to R92). -/
theorem test_selected_refuses :
    selected (sel 128 0) (.dstDrop 0) = false ∧ selected (sel 0x0100 0) (.dstZero 0) = false ∧
      selected (sel 129 0) (.dstPay 0) = false ∧ selected (sel 0 0) (.dstPay 0) = false ∧
      selected (sel 1 0) (.payMore 0) = false ∧ selected (sel 2 0) (.payLast 0) = false ∧
      selected (sel 2 0) (.ckOk 1) = false ∧ selected (sel 2 0) (.ckBad 0) = false := by decide

/-! ### Decoding words written out from R62: `r v ssss bbbbbbbb` -/

theorem test_decode_reset : decode SelRegs.table 0b11101000000000#14 = .ok .reset := by rfl
theorem test_decode_idle : decode SelRegs.table 0b00100111111111#14 = .ok .idle := by rfl
theorem test_decode_seekMiss : decode SelRegs.table 0b01000001010101#14 = .ok (.seekMiss 0x55) := by rfl
theorem test_decode_seekHit : decode SelRegs.table 0b01000010101010#14 = .ok (.seekHit 0xAA) := by rfl
theorem test_decode_syncHit : decode SelRegs.table 0b01000101010101#14 = .ok (.syncHit 0x55) := by rfl
theorem test_decode_syncMiss : decode SelRegs.table 0b01000110101010#14 = .ok (.syncMiss 0xAA) := by rfl
theorem test_decode_lenLo : decode SelRegs.table 0b01001000000100#14 = .ok (.lenLo 0x04) := by rfl
theorem test_decode_lenHi : decode SelRegs.table 0b01001110000001#14 = .ok (.lenHi 0x81) := by rfl
theorem test_decode_idLo : decode SelRegs.table 0b01010000000010#14 = .ok (.idLo 0x02) := by rfl
theorem test_decode_idHi : decode SelRegs.table 0b01010111111111#14 = .ok (.idHi 0xFF) := by rfl
theorem test_decode_src : decode SelRegs.table 0b01011000010000#14 = .ok (.src 0x10) := by rfl
theorem test_decode_dstDrop : decode (sel 129 0) 0b01011100100000#14 = .ok (.dstDrop 0x20) := by rfl
theorem test_decode_dstDrop_low_byte_zero : decode (sel 0x0100 0) 0b01011100100000#14 = .ok (.dstDrop 0x20) := by rfl
theorem test_decode_dstZero : decode (sel 0 0) 0b01011100100000#14 = .ok (.dstZero 0x20) := by rfl
theorem test_decode_dstPay : decode (sel 128 0) 0b01011100100000#14 = .ok (.dstPay 0x20) := by rfl
theorem test_decode_payMore : decode (sel 128 126) 0b01100010101010#14 = .ok (.payMore 0xAA) := by rfl
theorem test_decode_payLast : decode (sel 128 127) 0b01100010101010#14 = .ok (.payLast 0xAA) := by rfl
theorem test_decode_payLast_one : decode (sel 1 0) 0b01100011101111#14 = .ok (.payLast 0xEF) := by rfl
theorem test_decode_ckLo : decode SelRegs.table 0b01100101000001#14 = .ok (.ckLo 0x41) := by rfl
/-- R94's example: `ACC = 0x0441`, `RXCK[7:0] = 0x41`. -/
theorem test_decode_ckOk :
    decode { SelRegs.table with acc := 0x0441, rxck := 0xFF41 } 0b01101000000100#14 = .ok (.ckOk 0x04) := by rfl
/-- R95's example: `ACC = 0x0441`, `RXCK[7:0] = 0x42`. -/
theorem test_decode_ckBad :
    decode { SelRegs.table with acc := 0x0441, rxck := 0x0442 } 0b01101000000100#14 = .ok (.ckBad 0x04) := by rfl
theorem test_decode_unused_code : decode SelRegs.table 0b01111100000000#14 = .error (.unusedStCode 15) := by rfl
/-- 95_test_vectors.md section 6: the markers are the instance's, not constants of the decoder. -/
theorem test_decode_other_markers :
    decode { SelRegs.table with cfg := ⟨0x7E, 0x7E⟩ } 0b01000110101010#14 = .ok (.syncMiss 0xAA) ∧
      decode { SelRegs.table with cfg := ⟨0x7E, 0x7E⟩ } 0b01000001111110#14 = .ok (.seekHit 0x7E) := ⟨rfl, rfl⟩
theorem test_table_words :
    decodeTableWord 16 0x1855 = some (.payMore 0x55) ∧ decodeTableWord 16 0x1B00 = none ∧
      decodeTableWord 16 0x4000 = none ∧ decodeTableWord 16 0x10AA = some (.seekHit 0xAA) := by decide

/-! ### One step of each operation: the examples of R77 to R95 and the tables of 95_test_vectors.md -/

/-- R77. -/
theorem test_reset_in_payload :
    (next? (exec .reset { v12Header with cnt := 3 })).map (fun t => (t.st, t.event)) = some (.seeking, .none) := by rfl
/-- R78. -/
theorem test_idle_holds : (next? (step { v12Ck1 with event := .malformed 9, input := [Pins.idle] })).map
    (fun t => (t.st, t.rxck, t.event)) = some (.readingChecksum1, 0x0041, .none) := by rfl
/-- R79. -/
theorem test_seekMiss_marker1 :
    (next? (step (State.reset.offered (Pins.offer 0x55)))).map State.st = some .seeking := by rfl
/-- R80. -/
theorem test_seekHit : (next? (step (State.reset.offered (Pins.offer 0xAA)))).map (fun t => (t.st, t.acc)) =
    some (.matchedFirstMarker, 0) := by rfl
/-- R81. -/
theorem test_syncHit_loads_seed :
    (next? (step ((mid .matchedFirstMarker 0xFFFF 9 8 7 6 5).offered (Pins.offer 0x55)))).map
      (fun t => (t.st, t.acc, t.cnt, t.len)) = some (.readingLength0, 0x00FF, 0, 9) := by rfl
/-- R82. -/
theorem test_syncMiss_on_marker0 :
    (next? (step ((mid .matchedFirstMarker 0 0 0 0 0 0).offered (Pins.offer 0xAA)))).map State.st = some .seeking := by rfl
/-- R83, with an old high half. -/
theorem test_lenLo_keeps_high :
    (next? (step ((mid .readingLength0 0x00FF 0x1234 0 0 0 0).offered (Pins.offer 0x04)))).map
      (fun t => (t.len, t.acc, t.st)) = some (0x1204, 0x0103, .readingLength1) := by rfl
/-- R84. -/
theorem test_lenHi : (next? (step ((mid .readingLength1 0x0103 0xFF04 0 0 0 0).offered (Pins.offer 0x00)))).map
      (fun t => (t.len, t.acc, t.st)) = some (0x0004, 0x0103, .readingMessageId0) := by rfl
/-- R85. -/
theorem test_idLo : (next? (step ((mid .readingMessageId0 0x0103 4 0xAB00 0 0 0).offered (Pins.offer 0x02)))).map
      (fun t => (t.msgid, t.acc, t.st)) = some (0xAB02, 0x0105, .readingMessageId1) := by rfl
/-- R86. -/
theorem test_idHi : (next? (step ((mid .readingMessageId1 0x0105 4 0xAB02 0 0 0).offered (Pins.offer 0x01)))).map
      (fun t => (t.msgid, t.acc, t.st)) = some (0x0102, 0x0106, .readingSource) := by rfl
/-- R87. -/
theorem test_src : (next? (step ((mid .readingSource 0x0106 4 0x0102 0 9 0).offered (Pins.offer 0x01)))).map
      (fun t => (t.src, t.dst, t.acc, t.st)) = some (1, 9, 0x0107, .readingDestination) := by rfl
/-- R88 and P4, row 7. -/
theorem test_dstDrop : (next? (step ((mid .readingDestination 0x0191 0x0081 1 0x10 0 0).offered (Pins.offer 0x20)))).map
      (fun t => (t.dst, t.acc, t.st, t.event)) = some (0x20, 0x01B1, .seeking, .none) := by rfl
/-- R89. -/
theorem test_dstZero : (next? (step ((mid .readingDestination 0x0110 0 1 0x10 0 0).offered (Pins.offer 0x20)))).map
      (fun t => (t.dst, t.acc, t.st)) = some (0x20, 0x0130, .readingChecksum0) := by rfl
/-- R90. -/
theorem test_dstPay : (next? (step ((mid .readingDestination 0x0107 4 0x0102 1 0 0).offered (Pins.offer 0x02)))).map
      (fun t => (t.dst, t.acc, t.st)) = some (2, 0x0109, .readingPayload) := by rfl
/-- R91. -/
theorem test_payMore : (next? (step (v12Header.offered (Pins.offer 0xDE)))).map
      (fun t => (t.pay, t.cnt, t.acc, t.st)) = some ([(0, 0xDE)], 1, 0x01E7, .readingPayload) := by rfl
/-- R92. -/
theorem test_payLast : (next? (step (v12Last.offered (Pins.offer 0xEF)))).map
      (fun t => (t.pay.read 3, t.pay.read 2, t.cnt, t.acc, t.st)) = some (0xEF, 0xBE, 4, 0x0441, .readingChecksum0) := by rfl
/-- R93: `ACC` is not changed. -/
theorem test_ckLo : (next? (step (v12Ck0.offered (Pins.offer 0x41)))).map
      (fun t => (t.rxck, t.acc, t.st)) = some (0x0041, 0x0441, .readingChecksum1) := by rfl
/-- R94's example. -/
theorem test_ckOk : (next? (step (v12Ck1.offered (Pins.offer 0x04)))).map (fun t => (t.event, t.st, t.frameCksum)) =
    some (.frameOk ⟨4, 0x0102, 1, 2, [0xDE, 0xAD, 0xBE, 0xEF], 0x0441⟩, .seeking, 0x0441) := by rfl
/-- R95's example. -/
theorem test_ckBad : (next? (step (v12Bad.offered (Pins.offer 0x04)))).map
    (fun t => (t.event, t.st, t.errValid, t.errSrc, t.errCode)) = some (.malformed 1, .seeking, true, 1, 3) := by rfl
/-- R134: a byte offered with `rst = 1` is lost. -/
theorem test_reset_wins : (next? (step (v12Ck1.offered ⟨true, true, 0x04⟩))).map (fun t => (t.event, t.st)) =
    some (.none, .seeking) := by rfl
/-- R68's corner cases. -/
theorem test_accAdd_wraps :
    (({ State.reset with acc := 0xFFFF } : State).accAdd 0x01).acc = 0 ∧
      (({ State.reset with acc := 0xFF80 } : State).accAdd 0xFF).acc = 0x007F := by decide
/-- V12 just delivered: the state after its CK.OK. -/
def v12Done : State := { v12Ck0 with st := .seeking, rxck := 0x0441, readable := 4 }
/-- R31, R41: after CK.OK the read port shows the payload; a cell from `LEN` on is not a delivered one, nor is any after CK.BAD. -/
theorem test_payRdata :
    (next? (step (v12Ck1.offered (Pins.offer 0x04)))).map (fun t => (t.payRdata 0, t.payRdata 3, t.holdsDelivered 4)) =
      some (0xDE, 0xEF, false) ∧
    (next? (step ({ v12Bad with readable := 4 }.offered (Pins.offer 0x04)))).map (fun t => t.holdsDelivered 0) =
      some false := ⟨rfl, rfl⟩
/-- R138: the next frame's payload takes the cells over one by one. -/
theorem test_payRdata_overwritten :
    State.holdsDelivered { v12Header with cnt := 1, readable := 4 } 0 = false ∧
      State.holdsDelivered { v12Header with cnt := 1, readable := 4 } 1 = true := by decide
/-- Writing the value of an unlisted cell removes the cell. -/
theorem test_write_zero_removes : Memory.write [(0, 0xDE), (1, 0xAD)] 0 0 = [(1, 0xAD)] := by decide
/-- R70's example, R99's example (V11) and V12. -/
theorem test_encode :
    checksum [0xAA, 0x55, 0, 0, 1, 0, 0x10, 0x20] = 0x0130 ∧ encodeFrame Config.reference 1 0x10 0x20 [] = some v11 ∧
      encodeFrame Config.reference 0x0102 1 2 [0xDE, 0xAD, 0xBE, 0xEF] = some v12 := by decide
/-- 95_test_vectors.md section 6. -/
theorem test_encode_other_markers :
    encodeFrame ⟨0x7E, 0x7E⟩ 1 0x10 0x20 [] = some [0x7E, 0x7E, 0, 0, 1, 0, 0x10, 0x20, 0x2D, 1] := by decide
/-- R102 on V12, and the stream notation's BADCK of R66. -/
theorem test_readFrame_badCk :
    readFrame v12 = ⟨4, 0x0102, 1, 2, [0xDE, 0xAD, 0xBE, 0xEF], 0x0441⟩ ∧
      (badCk v12).drop 11 = [0xEF, 0x42, 0x04] ∧ validFrame Config.reference (badCk v12) = false := by decide

/-! ### Witnesses: states that satisfy the invariants, one in each value of `ST`, and at the boundaries -/

theorem witness_inv_reset : State.reset.Inv := ⟨rfl, trivial, fun h => absurd h (by decide)⟩
theorem witness_inv_matchedFirstMarker : (mid .matchedFirstMarker 7 200 0 0 0 0xFF).Inv :=
  ⟨rfl, trivial, fun h => absurd h (by decide)⟩
theorem witness_inv_readingLength0 : (mid .readingLength0 0x00FF 0xABCD 0 0 0 0).Inv := ⟨rfl, rfl, fun _ => rfl⟩
theorem witness_inv_readingLength1 : (mid .readingLength1 0x0103 0xAB04 0 0 0 0).Inv := ⟨rfl, rfl, fun _ => rfl⟩
theorem witness_inv_readingMessageId0 : (mid .readingMessageId0 0x0103 4 0 0 0 0).Inv := ⟨rfl, rfl, fun _ => rfl⟩
theorem witness_inv_readingMessageId1 : (mid .readingMessageId1 0x0105 4 0xFF02 0 0 0).Inv := ⟨rfl, rfl, fun _ => rfl⟩
theorem witness_inv_readingSource : (mid .readingSource 0x0106 4 0x0102 0 0 0).Inv := ⟨rfl, rfl, fun _ => rfl⟩
theorem witness_inv_readingDestination : (mid .readingDestination 0x0107 4 0x0102 1 0 0).Inv := ⟨rfl, rfl, fun _ => rfl⟩
/-- An oversize frame before `dst` (P4, row 6). -/
theorem witness_inv_oversize : (mid .readingDestination 0x0191 0x0081 1 0x10 0 0).Inv := ⟨rfl, rfl, fun _ => rfl⟩
/-- A zero-length frame before `dst` (P1). -/
theorem witness_inv_zero_length : (mid .readingDestination 0x0110 0 1 0x10 0 0).Inv := ⟨rfl, rfl, fun _ => rfl⟩
theorem witness_inv_readingPayload : v12Header.Inv := ⟨rfl, ⟨by decide, by decide, by decide⟩, fun _ => rfl⟩
theorem witness_inv_last_payload_byte : v12Last.Inv := ⟨rfl, ⟨by decide, by decide, by decide⟩, fun _ => rfl⟩
/-- An empty cell list sums to zero. -/
theorem paySum_nil : ∀ n, paySum [] n = 0
  | 0 => rfl
  | n + 1 => by simpa [paySum, Memory.readList_succ, Memory.read, Memory.unlisted] using paySum_nil n
/-- The last cell of the largest frame: `LEN = 128`, `CNT = 127`, 127 zero payload bytes. -/
theorem witness_inv_last_cell : (mid .readingPayload 0x017F 128 0 0 0 127).Inv :=
  ⟨rfl, ⟨by decide, by decide, by decide⟩, fun _ => by
    simp only [State.frameSum, mid, State.reset, State.resetWith, paySum_nil]
    decide⟩
theorem witness_inv_readingChecksum0 : v12Ck0.Inv := ⟨rfl, ⟨by decide, rfl⟩, fun _ => rfl⟩
theorem witness_inv_readingChecksum1 : v12Ck1.Inv := ⟨rfl, ⟨by decide, rfl⟩, fun _ => rfl⟩
theorem witness_inv_mismatch : v12Bad.Inv := ⟨rfl, ⟨by decide, rfl⟩, fun _ => rfl⟩
/-- The invariants exclude something: a wrong accumulator, and a count past the length. -/
theorem test_inv_excludes :
    ¬ (mid .readingLength0 0x0100 0 0 0 0 0).Inv ∧ ¬ (mid .readingPayload 0x0103 4 0 0 0 4).Inv :=
  ⟨fun h => absurd (h.sum rfl) (by decide), fun h => absurd h.counts.2.2 (by decide)⟩

/-! ### Witnesses of the statements about one step -/

theorem witness_StepWithoutInputIsIdle : State.reset.input = [] := rfl
theorem witness_StepRunsTheDecodedOperation :
    decode v12Header.selRegs (v12Header.offered (Pins.offer 0xDE)).key = .ok (.payMore 0xDE) ∧
      wellFormed v12Header.cfg (.payMore 0xDE) = true ∧
      decode (mid .readingPayload 0 2 0 0 0 2).selRegs ((mid .readingPayload 0 2 0 0 0 2).offered (Pins.offer 0)).key =
        .error (.noPayloadRow 2 2) := ⟨rfl, rfl, rfl⟩
theorem witness_FetchedTableWordIsRun : decodeTableWord 16 0x1A00 = some (.ckOk 0) ∧ decodeTableWord 14 0x2000 = some .reset := by
  decide
theorem witness_DecodeOfEncodeIsTheOperation :
    selected SelRegs.table (.seekHit 0xAA) = true ∧ selected (sel 129 0) (.dstDrop 0xFF) = true ∧
      selected (sel 0 0) (.dstZero 0) = true ∧ selected (sel 128 0) (.dstPay 1) = true ∧
      selected (sel 2 0) (.payMore 2) = true ∧ selected (sel 1 0) (.payLast 3) = true ∧
      selected SelRegs.table (.ckOk 0) = true ∧ selected SelRegs.table (.ckBad 1) = true := by decide
/-- Hypotheses of `DecodedOperationMatchesItsRow` and of `MatchingRowIsDecoded`, on one key. -/
theorem witness_rows :
    decode SelRegs.table 0b01001000000100#14 = .ok (.lenLo 0x04) ∧
      (0b01001000000100#14 : Key) &&& (Instr.lenLo 0x04).keyMask = (Instr.lenLo 0x04).keyMatch ∧
      selected SelRegs.table (.lenLo 0x04) = true ∧ (Instr.lenLo 0x04).byte = some (Key.data 0b01001000000100#14) :=
  ⟨rfl, by decide, by decide, by decide⟩
/-- Selection clauses of `SeekOperations` and `SyncOperations`. -/
theorem witness_SeekOperations_SyncOperations :
    State.reset.st = .seeking ∧ (0x55 : Byte) ≠ State.reset.cfg.marker0 ∧ (0xAA : Byte) = State.reset.cfg.marker0 ∧
      (mid .matchedFirstMarker 0 0 0 0 0 0).st = .matchedFirstMarker ∧ (0x55 : Byte) = State.reset.cfg.marker1 ∧
      (0xAA : Byte) ≠ State.reset.cfg.marker1 := by decide
/-- Different markers, and equal markers. -/
theorem witness_NoPartialMatchCarryOver :
    State.reset.st = .seeking ∧ State.reset.cfg.marker0 ≠ State.reset.cfg.marker1 ∧
      (State.resetWith ⟨0x7E, 0x7E⟩).st = .seeking ∧
      (State.resetWith ⟨0x7E, 0x7E⟩).cfg.marker0 = (State.resetWith ⟨0x7E, 0x7E⟩).cfg.marker1 := by decide
/-- Selection clauses of the header statements. -/
theorem witness_header_selection :
    (mid .readingLength0 0 0 0 0 0 0).st = .readingLength0 ∧ (mid .readingLength1 0 0 0 0 0 0).st = .readingLength1 ∧
      (mid .readingMessageId0 0 0 0 0 0 0).st = .readingMessageId0 ∧
      (mid .readingMessageId1 0 0 0 0 0 0).st = .readingMessageId1 ∧
      (mid .readingSource 0 0 0 0 0 0).st = .readingSource := by decide
/-- `LEN` = 129 and 0x0100, 0, 1 and 128: the three clauses at their boundaries; they do not overlap. -/
theorem witness_DestinationOperations :
    (mid .readingDestination 0 129 0 0 0 0).st = .readingDestination ∧ 128 < (129 : Word16).toNat ∧
      128 < (0x0100 : Word16).toNat ∧ (0 : Word16).toNat = 0 ∧ 1 ≤ (1 : Word16).toNat ∧ (128 : Word16).toNat ≤ 128 ∧
      ∀ n : Fin 65536, (if 128 < n.val then 1 else 0) + (if n.val = 0 then 1 else 0) +
        (if 1 ≤ n.val ∧ n.val ≤ 128 then 1 else 0) = 1 := by
  refine ⟨rfl, by decide, by decide, by decide, by decide, by decide, fun n => ?_⟩
  split <;> split <;> split <;> omega
/-- `CNT` = 0, 126 and 127, and the selection of both operations at the boundary. -/
theorem witness_PayloadByteOperations :
    (mid .readingPayload 0 128 0 0 0 126).cnt.toNat < 128 ∧ (mid .readingPayload 0 128 0 0 0 127).cnt.toNat < 128 ∧
      v12Last.cnt.toNat < 128 ∧ v12Last.pay.wf = true ∧ v12Last.st = .readingPayload ∧
      (126 : Byte).toNat + 1 < (128 : Word16).toNat ∧ (127 : Byte).toNat + 1 = (128 : Word16).toNat ∧
      (0 : Byte).toNat + 1 = (1 : Word16).toNat := by decide
/-- The first index and the first length outside `PAY`. -/
theorem witness_MissingPayloadCellFaults :
    128 ≤ (mid .readingPayload 0 0 0 0 0 128).cnt.toNat ∧ 128 < (mid .readingChecksum1 0 129 0 0 0 0).len.toNat := by decide
theorem witness_ChecksumLowByteOperation : v12Ck0.st = .readingChecksum0 := rfl
/-- `LEN` = 4, 0 and 128; the received checksum equal and not equal. -/
theorem witness_checksum_comparison :
    v12Ck1.len.toNat ≤ 128 ∧ (0 : Word16).toNat ≤ 128 ∧ (128 : Word16).toNat ≤ 128 ∧ v12Ck1.st = .readingChecksum1 ∧
      256 * (0x04 : Byte).toNat + v12Ck1.rxck.toNat % 256 = v12Ck1.acc.toNat ∧ v12Bad.st = .readingChecksum1 ∧
      256 * (0x04 : Byte).toNat + v12Bad.rxck.toNat % 256 ≠ v12Bad.acc.toNat := by decide
theorem witness_ChecksumIgnoresOrderAndSeesOneChange :
    ([1, 2] : List Byte).Perm [2, 1] ∧ (0x00 : Byte) ≠ 0x80 := ⟨by decide, by decide⟩
/-- Payloads of 0, 128 and 129 bytes. -/
theorem witness_EncodeDomainAndLength :
    ([] : List Byte).length ≤ 128 ∧ (List.replicate 128 (0xFF : Byte)).length ≤ 128 ∧
      128 < (List.replicate 129 (0xFF : Byte)).length := by simp
theorem witness_EncodedFieldsAreReadBack : encodeFrame Config.reference 0x0102 1 2 [0xDE, 0xAD, 0xBE, 0xEF] = some v12 := by decide
theorem witness_ValidFramesAreTheEncodings :
    validFrame Config.reference v12 = true ∧ validFrame Config.reference (v12.take 13) = false := by decide
/-- A step of each kind from a state that satisfies the invariants: RESET, no step, a byte. -/
theorem witness_steps :
    (∃ t, step (v12Ck1.offered Pins.reset) = .next t) ∧ (∃ t, step (v12Ck1.offered Pins.idle) = .next t) ∧
      (∃ t, step (v12Header.offered (Pins.offer 0xDE)) = .next t ∧ t.pay.read 0 ≠ v12Header.pay.read 0) :=
  ⟨⟨_, rfl⟩, ⟨_, rfl⟩, ⟨_, rfl, by decide⟩⟩
/-- Each clause of `EachRegisterHasItsWriters`: an operation that changes the register. -/
theorem witness_EachRegisterHasItsWriters :
    (∃ t, exec (.lenLo 1) State.reset = .next t ∧ lowByte t.len ≠ lowByte State.reset.len) ∧
    (∃ t, exec (.lenHi 1) State.reset = .next t ∧ highByte t.len ≠ highByte State.reset.len) ∧
    (∃ t, exec (.idLo 1) State.reset = .next t ∧ lowByte t.msgid ≠ lowByte State.reset.msgid) ∧
    (∃ t, exec (.idHi 1) State.reset = .next t ∧ highByte t.msgid ≠ highByte State.reset.msgid) ∧
    (∃ t, exec (.src 1) State.reset = .next t ∧ t.src ≠ State.reset.src) ∧
    (∃ t, exec (.dstDrop 1) State.reset = .next t ∧ t.dst ≠ State.reset.dst) ∧
    (∃ t, exec (.payMore 1) State.reset = .next t ∧ t.cnt ≠ State.reset.cnt ∧ t.pay.read 0 ≠ State.reset.pay.read 0) ∧
    (∃ t, exec (.syncHit 0x55) State.reset = .next t ∧ t.acc ≠ State.reset.acc) ∧
    (∃ t, exec (.ckLo 1) State.reset = .next t ∧ lowByte t.rxck ≠ lowByte State.reset.rxck) ∧
    (∃ t, exec (.ckBad 1) State.reset = .next t ∧ highByte t.rxck ≠ highByte State.reset.rxck) :=
  ⟨⟨_, rfl, by decide⟩, ⟨_, rfl, by decide⟩, ⟨_, rfl, by decide⟩, ⟨_, rfl, by decide⟩, ⟨_, rfl, by decide⟩,
   ⟨_, rfl, by decide⟩, ⟨_, rfl, by decide, by decide⟩, ⟨_, rfl, by decide⟩, ⟨_, rfl, by decide⟩, ⟨_, rfl, by decide⟩⟩
/-- `PayloadWritesStayBelowLength` at the last cell of the buffer. -/
theorem witness_PayloadWritesStayBelowLength :
    ((mid .readingPayload 0x017F 128 0 0 0 127).offered (Pins.offer 0xEE)).pins.rst = false ∧
      ∃ t, step ((mid .readingPayload 0x017F 128 0 0 0 127).offered (Pins.offer 0xEE)) = .next t ∧
        t.pay.read 127 ≠ (mid .readingPayload 0x017F 128 0 0 0 127).pay.read 127 := ⟨rfl, _, rfl, by decide⟩
/-- `AccumulatorNeverWrapsInAFrame` in a payload state, at an oversize destination byte, and at the begin of a frame. -/
theorem witness_AccumulatorNeverWrapsInAFrame :
    (∃ t, step (v12Header.offered (Pins.offer 0xDE)) = .next t ∧ ParserState.inFrame t.st = true) ∧
      ParserState.inFrame v12Header.st = true ∧ v12Header.st ≠ .readingChecksum0 ∧ v12Header.st ≠ .readingChecksum1 ∧
      v12Header.cfg = Config.reference ∧
      (∃ t, step ((mid .readingDestination 0x0191 0x0081 1 0x10 0 0).offered (Pins.offer 0x20)) = .next t) ∧
      (∃ t, step ((mid .matchedFirstMarker 7 200 0 0 0 0xFF).offered (Pins.offer 0x55)) = .next t ∧ t.st = .readingLength0) :=
  ⟨⟨_, rfl, rfl⟩, rfl, by decide, by decide, rfl, ⟨_, rfl⟩, ⟨_, rfl, rfl⟩⟩
/-- `ReceivedBytesAreHeld` in V12 before its last byte: the eleven bytes after the markers are held. -/
theorem witness_ReceivedBytesAreHeld :
    v12Ck1.Received [0x04, 0x00, 0x02, 0x01, 0x01, 0x02, 0xDE, 0xAD, 0xBE, 0xEF, 0x41] where
  count := rfl
  acc := rfl
  lenLo _ h := Option.some.inj h
  lenHi _ h := Option.some.inj h
  idLo _ h := Option.some.inj h
  idHi _ h := Option.some.inj h
  src _ h := Option.some.inj h
  dst _ h := Option.some.inj h
  payload i b hi h := by
    have hi : i < 4 := hi
    match i with
    | 0 | 1 | 2 | 3 => exact Option.some.inj h
  ckLo _ h := Option.some.inj h
/-- The step into a frame, and one that stays in it. -/
theorem witness_ReceivedBytesAreHeld_steps :
    (∃ t, step ((mid .matchedFirstMarker 7 200 0 0 0 0xFF).offered (Pins.offer 0x55)) = .next t ∧
      ParserState.inFrame t.st = true) ∧
    (∃ t, step (v12Ck1.offered Pins.idle) = .next t ∧ ParserState.inFrame t.st = true) := ⟨⟨_, rfl, rfl⟩, ⟨_, rfl, rfl⟩⟩
/-- A register that holds another byte than the one received is not `Received`. -/
theorem test_received_excludes : ¬ ({ v12Ck1 with dst := 3 } : State).Received [4, 0, 2, 1, 1, 2, 0xDE, 0xAD, 0xBE, 0xEF, 0x41] :=
  fun h => absurd (h.dst 2 rfl) (by decide)
/-- `CountStaysWithinTheBuffer` at the largest count, and at SYNC.HIT. -/
theorem witness_CountStaysWithinTheBuffer :
    (∃ t, step ((mid .readingPayload 0x017F 128 0 0 0 127).offered (Pins.offer 0)) = .next t ∧ t.cnt = 128) ∧
      (mid .readingPayload 0x017F 128 0 0 0 127).cnt.toNat ≤ 128 ∧
      (∃ t, step ((mid .matchedFirstMarker 7 200 0 0 0 0xFF).offered (Pins.offer 0x55)) = .next t ∧ t.st = .readingLength0) :=
  ⟨⟨_, rfl, rfl⟩, by decide, ⟨_, rfl, rfl⟩⟩
/-- Each clause of `UndeliveredCellsReadAsFreeValues`; the last at the first index outside the frame. -/
theorem witness_UndeliveredCellsReadAsFreeValues :
    (∃ t, exec .reset v12Done = .next t) ∧ (∃ t, exec (.ckBad 4) v12Bad = .next t) ∧
      (∃ t, exec (.syncMiss 0) v12Done = .next t) ∧ (∃ t, exec (.dstDrop 0) v12Done = .next t) ∧
      (∃ t, exec (.ckOk 4) v12Ck1 = .next t) ∧ v12Ck1.len.toNat ≤ (4 : BitVec 7).toNat ∧
      v12Done.readable ≤ (4 : BitVec 7).toNat :=
  ⟨⟨_, rfl⟩, ⟨_, rfl⟩, ⟨_, rfl⟩, ⟨_, rfl⟩, ⟨_, rfl⟩, by decide, by decide⟩
/-- Both events occur. -/
theorem witness_events :
    (∃ t, step (v12Ck1.offered (Pins.offer 0x04)) = .next t ∧ t.frameValid = true ∧ t.event ≠ .none) ∧
      (∃ t, step (v12Bad.offered (Pins.offer 0x04)) = .next t ∧ t.errValid = true ∧ t.event ≠ .none) :=
  ⟨⟨_, rfl, rfl, by decide⟩, ⟨_, rfl, rfl, by decide⟩⟩
theorem witness_EmittedFramesAreValid :
    ∃ t f, step (v12Ck1.offered (Pins.offer 0x04)) = .next t ∧ t.event = .frameOk f := ⟨_, _, rfl, rfl⟩
/-- Two states in `Seeking` with the same markers that differ in every register. -/
theorem witness_UnspecifiedRegistersAreNeverObserved :
    ({ mid .seeking 0xFFFF 0xFFFF 0xFFFF 9 9 200 with rxck := 3, pay := [(5, 1)] } : State).Inv ∧
      (mid .seeking 0xFFFF 0xFFFF 0xFFFF 9 9 200).cfg = State.reset.cfg := ⟨⟨rfl, trivial, fun h => absurd h (by decide)⟩, rfl⟩

/-! ### Witnesses of the statements about byte streams -/

/-- V11 and V12 are valid frames; their fields and `Seeking` meet the hypotheses of the framing statements. -/
theorem witness_valid_frames :
    State.reset.st = .seeking ∧ validFrame State.reset.cfg v11 = true ∧ validFrame State.reset.cfg v12 = true ∧
      encodeFrame State.reset.cfg 1 0x10 0x20 [] = some v11 ∧ ∀ F ∈ [v11, v12, v11], validFrame State.reset.cfg F = true := by
  decide
/-- V13's size: the largest payload. -/
theorem witness_largest_payload : (List.replicate 128 (0xFF : Byte)).length ≤ 128 := by simp
/-- `HeaderLengthAloneDelimitsTheFrame`: a right and a wrong checksum. -/
theorem witness_HeaderLengthAloneDelimitsTheFrame :
    joinBytes 0x01 0x30 = checksum (frameBody State.reset.cfg 1 0x10 0x20 []) ∧
      joinBytes 0x01 0x31 ≠ checksum (frameBody State.reset.cfg 1 0x10 0x20 []) := by decide
theorem witness_StrayMarkerHidesTheNextFrame :
    State.reset.cfg.marker0 ≠ State.reset.cfg.marker1 ∧ State.reset.cfg.marker0 ∉ v11.tail := by decide
/-- A noise string that ends in `Seeking`: from `Seeking`, and from a frame about to fail. -/
theorem witness_ResynchronisationExactForm :
    (∃ t es, feed State.reset [0x55, 0x00] = .next (t, es) ∧ t.st = .seeking) ∧ State.reset.cfg.marker0 ∉ ([0x55, 0x00] : List Byte) ∧
      (∃ t es, feed v12Bad [0x04] = .next (t, es) ∧ t.st = .seeking) := ⟨⟨_, _, rfl, rfl⟩, by decide, ⟨_, _, rfl, rfl⟩⟩
/-- 137, 136 and `LEN - CNT + 2` bytes, in the states of the three clauses (the invariants hold there, above). -/
theorem witness_SeekingWithinBoundedBytes :
    (mid .matchedFirstMarker 7 200 0 0 0 0xFF).st ≠ .seeking ∧ 137 ≤ (List.replicate 137 (0x55 : Byte)).length ∧
      (mid .readingLength0 0x00FF 0xABCD 0 0 0 0).st = .readingLength0 ∧ 136 ≤ (List.replicate 136 (0x80 : Byte)).length ∧
      v12Last.st = .readingPayload ∧ ([0xEF, 0x41, 0x04] : List Byte).length = v12Last.len.toNat - v12Last.cnt.toNat + 2 := by
  refine ⟨by decide, by simp, rfl, by simp, rfl, by decide⟩
theorem witness_NoiseWithoutMarkerRecovers :
    137 ≤ (List.replicate 137 (0x55 : Byte)).length ∧ State.reset.cfg.marker0 ∉ List.replicate 137 (0x55 : Byte) := by
  constructor <;> simp
  decide
/-- The bound of `EventsAreTenBytesApart` is met: a `Malformed`, then V11 at once (11 bytes). -/
theorem witness_EventsAreTenBytesApart :
    ∃ t es, feed v12Bad (0x04 :: v11) = .next (t, es) ∧ es.length = 11 ∧ es[0]? ≠ some .none ∧ es[10]? ≠ some .none :=
  ⟨_, _, rfl, rfl, by decide, by decide⟩
/-- `CorruptedFrameIsReported` at its first and last offsets, and `CorruptedStartOrLengthIsSilent`. -/
theorem witness_corruptions :
    4 ≤ 4 ∧ 9 < v11.length ∧ v11[4]? ≠ some 0x81 ∧ v11[9]? ≠ some 0x00 ∧ (0xAB : Byte) ≠ State.reset.cfg.marker0 ∧
      (0x54 : Byte) ≠ State.reset.cfg.marker1 ∧ (0x01 : Byte) ≠ 0 ∧ 128 < (0x81 : Byte).toNat := by decide
/-- V31's frame: a valid frame in which `len_lo` taken to 0 satisfies the comparison (R109 item e). -/
def v31 : List Byte := [0xAA, 0x55, 0x02, 0x00, 0x01, 0x00, 0x10, 0x20, 0x30, 0x01, 0x63, 0x01]
/-- `CorruptedLengthWithinTheBuffer`: a longer length (by one, and 128), a shorter one that matches, and one that does not. -/
theorem witness_CorruptedLengthWithinTheBuffer :
    (wireWord v11 2).toNat < (1 : Byte).toNat ∧ (wireWord v11 2).toNat < (128 : Byte).toNat ∧ (128 : Byte).toNat ≤ 128 ∧
      validFrame State.reset.cfg v31 = true ∧ (0 : Byte).toNat < (wireWord v31 2).toNat ∧
      wireWord (v31.set 2 0) 8 = checksum ((v31.set 2 0).take 8) ∧ (3 : Byte).toNat < (wireWord v12 2).toNat ∧
      wireWord (v12.set 2 3) 11 ≠ checksum ((v12.set 2 3).take 11) := by decide
/-- The read port's clause of `RetentionWindowsAfterAnEvent`, at the last byte of a cell's window with cells still delivered. -/
theorem witness_RetentionWindowsAfterAnEvent_port :
    v12Done.st = .seeking ∧ v12Done.pay.wf = true ∧
      ∃ t es, feed v12Done (v11.take 8) = .next (t, es) ∧ (0 : BitVec 7).toNat < t.readable :=
  ⟨rfl, rfl, _, _, rfl, by decide⟩
/-- Runs of 1 to 9 bytes after an event, for each clause of `RetentionWindowsAfterAnEvent` at its boundary. -/
theorem witness_RetentionWindowsAfterAnEvent :
    State.reset.pay.wf = true ∧ ∀ n : Fin 10, ∃ t es, feed State.reset (v11.take n.val) = .next (t, es) := by
  refine ⟨rfl, fun n => ?_⟩
  match n with
  | 0 | 1 | 2 | 3 | 4 | 5 | 6 | 7 | 8 | 9 => exact ⟨_, _, rfl⟩
/-- The registers do change when the windows end: `ACC` at byte 2, `LEN[7:0]` at byte 3 (R137, R139). -/
theorem test_retention_windows_end :
    ∃ t es, feed { mid .seeking 9 9 9 9 9 9 with rxck := 9 } (v11.take 3) = .next (t, es) ∧ t.acc ≠ 9 ∧ t.cnt ≠ 9 ∧ t.len ≠ 9 :=
  ⟨_, _, rfl, by decide, by decide, by decide⟩
theorem witness_ResetThenFrameIsParsed : v12Header.Inv ∧ validFrame v12Header.cfg v11 = true :=
  ⟨witness_inv_readingPayload, by decide⟩

end Sys2Proof.Tests
end

section
/-! SUPPORT. Cycles in which no byte is offered, and an input that has stopped (R47, R78, R111; log entry 5). -/

namespace Sys2Proof.Machine

/-- A cycle with neither `rst` nor `in_valid` is IDLE (R61, R78). -/
theorem step_of_no_byte {s : State} (hr : s.pins.rst = false) (hv : s.pins.inValid = false) :
    step s = .next (s.advance.emit .none) := by
  simp [step_eq, hr, hv]

theorem State.pins_of_input_nil {s : State} (h : s.input = []) : s.pins = Pins.idle := by
  simp [State.pins, h]

/-- An exhausted input has no pins to consume. -/
theorem State.advance_of_input_nil {s : State} (h : s.input = []) : s.advance = s := by
  cases s
  cases h
  rfl

/-- Settles O7: the pins of an exhausted input read as idle, and consuming them leaves the state as it was. -/
theorem stepWithoutInputIsIdle : Obligations.StepWithoutInputIsIdle := by
  intro s hin
  have hpins := State.pins_of_input_nil hin
  calc step s
      = .next (s.advance.emit .none) := step_of_no_byte (by rw [hpins]; rfl) (by rw [hpins]; rfl)
    _ = .next (s.emit .none) := by rw [State.advance_of_input_nil hin]

end Sys2Proof.Machine
end

section
/-! SUPPORT. The two definitions of a valid frame agree (R50): by the offsets of its fields, and as a value of `encode` (R99).
The arguments of `encode` are those that the receiver reads (R102). -/

namespace Sys2Proof.Machine

/-! ### Two adjacent bytes as a little-endian word -/

@[simp] theorem lowByte_wireWord (bs : List Byte) (i : Nat) : lowByte (wireWord bs i) = bs.getD i 0 := lowByte_joinBytes _ _

@[simp] theorem highByte_wireWord (bs : List Byte) (i : Nat) : highByte (wireWord bs i) = bs.getD (i + 1) 0 :=
  highByte_joinBytes _ _

theorem wireWord_append_of_length {xs : List Byte} {k : Nat} (h : xs.length = k) (w : Word16) :
    wireWord (xs ++ [lowByte w, highByte w]) k = w := by
  subst h
  simp [wireWord]

/-- A string is its bytes before the last two, then the halves of the word in the last two. -/
theorem take_append_wireWord {bs : List Byte} {k : Nat} (h : bs.length = k + 2) :
    bs.take k ++ [lowByte (wireWord bs k), highByte (wireWord bs k)] = bs := by
  have hlast : bs.drop k = [bs.getD k 0, bs.getD (k + 1) 0] := by
    rw [List.drop_eq_getElem_cons (by omega), List.drop_eq_getElem_cons (by omega),
      List.drop_eq_nil_of_le (by omega), List.getD_eq_getElem _ _ (by omega), List.getD_eq_getElem _ _ (by omega)]
  rw [lowByte_wireWord, highByte_wireWord, ← hlast, List.take_append_drop]

/-! ### The header and the payload -/

@[simp] theorem length_frameBody (cfg : Config) (m : Word16) (src dst : Byte) (p : List Byte) :
    (frameBody cfg m src dst p).length = 8 + p.length := by
  simp only [frameBody, List.length_append, List.length_cons, List.length_nil]

/-- The `len` field of R48. -/
theorem wireWord_two_frameBody_append (cfg : Config) (m : Word16) (src dst : Byte) (p ck : List Byte) :
    wireWord (frameBody cfg m src dst p ++ ck) 2 = BitVec.ofNat 16 p.length := joinBytes_high_low _

/-- The header in a string of at least 8 bytes, by its offsets (R48). -/
theorem take_eight_eq_getD : ∀ {bs : List Byte}, 8 ≤ bs.length →
    bs.take 8 = [bs.getD 0 0, bs.getD 1 0, bs.getD 2 0, bs.getD 3 0, bs.getD 4 0, bs.getD 5 0, bs.getD 6 0, bs.getD 7 0]
  | _ :: _ :: _ :: _ :: _ :: _ :: _ :: _ :: _, _ => rfl

/-! ### `encode` and the valid frames -/

theorem encodeFrame_eq_some_iff {cfg : Config} {m : Word16} {src dst : Byte} {p bs : List Byte} :
    encodeFrame cfg m src dst p = some bs ↔ p.length ≤ maxPayload ∧
      frameBody cfg m src dst p ++ [lowByte (checksum (frameBody cfg m src dst p)),
        highByte (checksum (frameBody cfg m src dst p))] = bs := by
  simp [encodeFrame]

/-- R50, with the checksum field compared as a word. -/
theorem validFrame_iff {cfg : Config} {bs : List Byte} :
    validFrame cfg bs = true ↔
      bs.getD 0 0 = cfg.marker0 ∧ bs.getD 1 0 = cfg.marker1 ∧ (wireWord bs 2).toNat ≤ maxPayload ∧
        bs.length = 10 + (wireWord bs 2).toNat ∧
        wireWord bs (8 + (wireWord bs 2).toNat) = checksum (bs.take (8 + (wireWord bs 2).toNat)) := by
  simp only [validFrame, Bool.and_eq_true, decide_eq_true_eq, beq_iff_eq, ← checksum_toNat, ← BitVec.toNat_inj]
  constructor
  · rintro ⟨⟨⟨⟨⟨-, h0⟩, h1⟩, hmax⟩, hlen⟩, hck⟩
    exact ⟨h0, h1, hmax, hlen, hck⟩
  · rintro ⟨h0, h1, hmax, hlen, hck⟩
    exact ⟨⟨⟨⟨⟨by omega, h0⟩, h1⟩, hmax⟩, hlen⟩, hck⟩

/-- R101 item b: an encoding is a valid frame. -/
theorem validFrame_of_encodeFrame {cfg : Config} {m : Word16} {src dst : Byte} {p bs : List Byte}
    (h : encodeFrame cfg m src dst p = some bs) : validFrame cfg bs = true := by
  obtain ⟨hp, rfl⟩ := encodeFrame_eq_some_iff.mp h
  have hbody := length_frameBody cfg m src dst p
  have hn : (BitVec.ofNat 16 p.length).toNat = p.length := by
    rw [maxPayload] at hp
    rw [BitVec.toNat_ofNat]
    omega
  rw [validFrame_iff, wireWord_two_frameBody_append, hn, wireWord_append_of_length hbody, List.take_left' hbody]
  refine ⟨rfl, rfl, hp, ?_, rfl⟩
  simp only [List.length_append, hbody, List.length_cons, List.length_nil]
  omega

/-- The header and the payload of a valid frame are those that `encode` builds from the fields read (R102). -/
theorem frameBody_readFrame {cfg : Config} {bs : List Byte} (h : validFrame cfg bs = true) :
    frameBody cfg (readFrame bs).messageId (readFrame bs).source (readFrame bs).destination (readFrame bs).payload =
      bs.take (8 + (wireWord bs 2).toNat) := by
  obtain ⟨h0, h1, -, hlen, -⟩ := validFrame_iff.mp h
  have hpayload : ((bs.drop 8).take (wireWord bs 2).toNat).length = (wireWord bs 2).toNat := by
    rw [List.length_take, List.length_drop]
    omega
  rw [List.take_add, take_eight_eq_getD (by omega), h0, h1]
  simp only [frameBody, readFrame, hpayload, BitVec.ofNat_toNat, BitVec.setWidth_eq, lowByte_wireWord, highByte_wireWord]

/-- R101 item b: a valid frame is the encoding of the fields read from it (R102). -/
theorem encodeFrame_readFrame {cfg : Config} {bs : List Byte} (h : validFrame cfg bs = true) :
    encodeFrame cfg (readFrame bs).messageId (readFrame bs).source (readFrame bs).destination (readFrame bs).payload =
      some bs := by
  obtain ⟨-, -, hmax, hlen, hck⟩ := validFrame_iff.mp h
  rw [encodeFrame_eq_some_iff, frameBody_readFrame h, ← hck]
  exact ⟨(List.length_take_le _ _).trans hmax, take_append_wireWord (by omega)⟩

/-- Settles O30: an encoding passes the checks by offset, and a valid frame is the encoding of its own fields. -/
theorem validFramesAreTheEncodings : Obligations.ValidFramesAreTheEncodings := by
  intro cfg bs
  constructor
  · intro h
    exact ⟨_, _, _, _, encodeFrame_readFrame h⟩
  · rintro ⟨m, src, dst, p, h⟩
    exact validFrame_of_encodeFrame h

end Sys2Proof.Machine
end

section
/-! SUPPORT. A frame up to its checksum, fed from `Seeking`: what the machine holds after the bytes before the destination, after
the payload, and after both, as explicit states. -/

namespace Sys2Proof.Machine

/-! ### The checksum is a sum of words (R70, R71) -/

@[simp] theorem checksum_nil : checksum [] = 0#16 := rfl

theorem checksum_append (xs ys : List Byte) : checksum (xs ++ ys) = checksum xs + checksum ys := by
  simp only [checksum, byteSum_append, BitVec.ofNat_add]

theorem checksum_cons (b : Byte) (bs : List Byte) : checksum (b :: bs) = zext16 b + checksum bs := by
  rw [checksum, byteSum_cons, BitVec.ofNat_add, checksum, zext16, BitVec.ofNat_toNat]

/-! ### Bytes consumed without an event -/

theorem step_of_selectByte {s : State} {st : ParserState} {b : Byte} {i : Instr} (hs : s.st = st)
    (hi : selectByte s.selRegs st b = .ok i) : step (s.offered (Pins.offer b)) = exec i s := by
  rw [step_offer, hs, hi]
  rfl

/-- The converse of `byteStep_of_run`: the operation whose condition holds is the one performed. -/
theorem step_of_byteStep {s t : State} {b : Byte} (h : ByteStep b s t) : step (s.offered (Pins.offer b)) = .next t := by
  cases h with
  | seekMiss hs hb => exact (step_of_selectByte hs (if_neg hb)).trans rfl
  | seekHit hs hb => exact (step_of_selectByte hs (if_pos hb)).trans rfl
  | syncHit hs hb => exact (step_of_selectByte hs (if_pos hb)).trans rfl
  | syncMiss hs hb => exact (step_of_selectByte hs (if_neg hb)).trans rfl
  | lenLo hs | lenHi hs | idLo hs | idHi hs | src hs | ckLo hs => exact (step_of_selectByte hs rfl).trans rfl
  | dstDrop hs hgt => exact (step_of_selectByte hs (if_pos hgt)).trans rfl
  | dstZero hs h0 =>
    have hle : ¬ maxPayload < s.len.toNat := by omega
    exact (step_of_selectByte hs ((if_neg hle).trans (if_pos ((word_eq_zero_iff s.len).mpr h0)))).trans rfl
  | dstPay hs hge hle =>
    have hne : s.len ≠ 0 := fun h => absurd ((word_eq_zero_iff s.len).mp h) (by omega)
    exact (step_of_selectByte hs ((if_neg (Nat.not_lt.mpr hle)).trans (if_neg hne))).trans rfl
  | payMore hs hc hlt =>
    rw [step_of_selectByte hs (if_pos ((cntSucc_lt_iff hc).mpr hlt)), exec, execPayMore, State.storePayload_of_lt hc]
    rfl
  | payLast hs hc heq =>
    have hnlt : ¬ cntSucc s.cnt < s.len := fun h => absurd ((cntSucc_lt_iff hc).mp h) (by omega)
    rw [step_of_selectByte hs ((if_neg hnlt).trans (if_pos ((cntSucc_eq_iff hc).mpr heq))), exec, execPayLast,
      State.storePayload_of_lt hc]
    rfl
  | ckOk hs hl hrx =>
    rw [step_of_selectByte hs (if_pos hrx), exec, execCkOk, State.copyPayload_of_le hl]
    rfl
  | ckBad hs hrx => exact (step_of_selectByte hs (if_neg hrx)).trans rfl

theorem silent_append (m n : Nat) : silent m ++ silent n = silent (m + n) := List.replicate_append_replicate

theorem feed_nil_silent (s : State) : feed s [] = .next (s, silent 0) := rfl

theorem feed_cons_silent {s t u : State} {b : Byte} {bs : List Byte} {n : Nat} (h : ByteStep b s t) (he : t.event = .none)
    (hr : feed t bs = .next (u, silent n)) : feed s (b :: bs) = .next (u, silent (n + 1)) := by
  rw [feed_cons_next (step_of_byteStep h) hr, he]
  rfl

/-! ### The bytes before the destination -/

/-- The bytes at offsets 0 to 6 of a frame (R48). -/
def bytesToSource (cfg : Config) (n m : Word16) (src : Byte) : List Byte :=
  [cfg.marker0, cfg.marker1, lowByte n, highByte n, lowByte m, highByte m, src]

theorem frameBody_eq_bytesToSource_append (cfg : Config) (m : Word16) (src dst : Byte) (p : List Byte) :
    frameBody cfg m src dst p = bytesToSource cfg (BitVec.ofNat 16 p.length) m src ++ dst :: p := rfl

/-- What `s`, which was in `Seeking`, has become after the bytes up to the source: the registers hold their fields, `CNT` is 0
and `ACC` is the checksum so far (R81, R83 to R87). -/
def State.atDestination (n m : Word16) (src : Byte) (s : State) : State :=
  { s with st := .readingDestination, len := n, msgid := m, src := src, cnt := 0,
           acc := checksum (bytesToSource s.cfg n m src), event := .none }

/-- The two halves of a field, written in the order of the wire, leave no bit of the register's old content (R36). -/
theorem withHighByte_withLowByte (v w : Word16) : withHighByte (withLowByte v (lowByte w)) (highByte w) = w :=
  word_ext (by simp) (by simp)

/-- `ACC` when the source has been added is the checksum of the seven bytes: `CK_SEED` stands for the markers (R67, R68). -/
theorem checksum_bytesToSource (cfg : Config) (n m : Word16) (src : Byte) :
    checksum (bytesToSource cfg n m src) =
      ckSeed cfg + zext16 (lowByte n) + zext16 (highByte n) + zext16 (lowByte m) + zext16 (highByte m) + zext16 src := by
  simp only [bytesToSource, ckSeed, checksum_cons, checksum_nil, BitVec.add_zero, BitVec.add_assoc]

/-- The header up to the source is taken from `Seeking` with any declared length (R84). -/
theorem feed_bytesToSource {s : State} (hs : s.st = .seeking) (n m : Word16) (src : Byte) :
    feed s (bytesToSource s.cfg n m src) = .next (s.atDestination n m src, silent 7) := by
  have hrun := feed_cons_silent (.seekHit hs rfl) rfl <| feed_cons_silent (.syncHit rfl rfl) rfl <|
    feed_cons_silent (b := lowByte n) (.lenLo rfl) rfl <| feed_cons_silent (b := highByte n) (.lenHi rfl) rfl <|
    feed_cons_silent (b := lowByte m) (.idLo rfl) rfl <| feed_cons_silent (b := highByte m) (.idHi rfl) rfl <|
    feed_cons_silent (b := src) (.src rfl) rfl <| feed_nil_silent _
  simp only [withHighByte_withLowByte, ← checksum_bytesToSource] at hrun
  exact hrun

/-! ### The payload -/

/-- `PAY` after the bytes of a list have been stored from index `a` on. -/
def Memory.writeList : Memory → Nat → List Byte → Memory
  | m, _, [] => m
  | m, a, b :: bs => (m.write a b).writeList (a + 1) bs

/-- Storing a list from index `n` on appends it to the first `n` cells (R91, R92). -/
theorem Memory.readList_writeList : ∀ {m : Memory} {n : Nat} (p : List Byte), m.wf = true → n + p.length ≤ maxPayload →
    (m.writeList n p).readList (n + p.length) = m.readList n ++ p
  | m, n, [], _, _ => (List.append_nil _).symm
  | m, n, b :: p, hm, hle => by
    rw [List.length_cons] at hle ⊢
    have ih := Memory.readList_writeList (n := n + 1) p (Memory.write_wf b hm (a := n) (by omega)) (by omega)
    rw [Memory.readList_write_succ hm, List.append_assoc] at ih
    rw [← Nat.add_assoc, Nat.add_right_comm]
    exact ih

/-- What `s`, in `ReadingPayload`, has become after the last bytes `p` of the payload (R91, R92). -/
def State.afterPayload (p : List Byte) (s : State) : State :=
  { s with st := .readingChecksum0, pay := s.pay.writeList s.cnt.toNat p, acc := s.acc + checksum p,
           cnt := s.cnt + BitVec.ofNat 8 p.length, event := .none }

theorem cnt_succ_toNat {s : State} (h : s.cnt.toNat < maxPayload) : (s.cnt + 1).toNat = s.cnt.toNat + 1 := by
  rw [maxPayload] at h
  rw [← zext16_toNat, ← cntSucc, cntSucc_toNat (by omega)]

/-- Storing one byte and then the rest is storing them all. -/
theorem State.afterPayload_cons {s : State} (b : Byte) (p : List Byte) (h : s.cnt.toNat < maxPayload) (st : ParserState) :
    State.afterPayload p { s with pay := s.pay.write s.cnt.toNat b, acc := s.acc + zext16 b, cnt := s.cnt + 1, st := st,
                                  event := .none } = s.afterPayload (b :: p) := by
  have hcnt : BitVec.ofNat 8 (p.length + 1) = 1 + BitVec.ofNat 8 p.length := by
    rw [Nat.add_comm, BitVec.ofNat_add]
    rfl
  simp only [State.afterPayload, cnt_succ_toNat h, Memory.writeList, checksum_cons, List.length_cons, hcnt, BitVec.add_assoc]

/-- The rest of a payload, of the length that `LEN` leaves open, is stored and added byte by byte. -/
theorem feed_payload : ∀ {s : State} {p : List Byte}, s.st = .readingPayload → p ≠ [] →
    s.cnt.toNat + p.length = s.len.toNat → s.len.toNat ≤ maxPayload →
    feed s p = .next (s.afterPayload p, silent p.length)
  | s, [b], hs, _, hlen, hmax => by
    rw [List.length_singleton] at hlen
    have hc : s.cnt.toNat < maxPayload := by omega
    rw [← State.afterPayload_cons b [] hc .readingChecksum0]
    simpa [State.afterPayload, Memory.writeList] using feed_cons_silent (.payLast hs hc hlen) rfl (feed_nil_silent _)
  | s, b :: c :: p, hs, _, hlen, hmax => by
    rw [List.length_cons] at hlen
    have hc : s.cnt.toNat < maxPayload := by omega
    have hmore : s.cnt.toNat + 1 < s.len.toNat := by rw [← hlen, List.length_cons]; omega
    rw [← State.afterPayload_cons b (c :: p) hc .readingPayload]
    refine feed_cons_silent (.payMore hs hc hmore) rfl (feed_payload rfl (List.cons_ne_nil _ _) ?_ hmax)
    change (s.cnt + 1).toNat + _ = s.len.toNat
    rw [cnt_succ_toNat hc]
    omega

/-! ### The header and the payload -/

/-- What `s`, which was in `Seeking`, has become after the header and the payload of a frame: `ST` is `ReadingChecksum(0)`, each
field stands in its register or in `PAY`, and `ACC` is the checksum that the frame must carry (R73). -/
def State.atChecksum (m : Word16) (src dst : Byte) (p : List Byte) (s : State) : State :=
  { s with st := .readingChecksum0, len := BitVec.ofNat 16 p.length, msgid := m, src := src, dst := dst,
           cnt := BitVec.ofNat 8 p.length, acc := checksum (frameBody s.cfg m src dst p), pay := s.pay.writeList 0 p,
           event := .none }

theorem toNat_ofNat_length {p : List Byte} (hp : p.length ≤ maxPayload) : (BitVec.ofNat 16 p.length).toNat = p.length := by
  rw [maxPayload] at hp
  rw [BitVec.toNat_ofNat]
  omega

/-- The destination byte and the payload, with the declared length right: without a payload DST.ZERO alone, otherwise DST.PAY and
the payload bytes. -/
theorem feed_destination_payload (s : State) (m : Word16) (src dst : Byte) {p : List Byte} (hp : p.length ≤ maxPayload) :
    feed (s.atDestination (BitVec.ofNat 16 p.length) m src) (dst :: p) =
      .next (s.atChecksum m src dst p, silent (p.length + 1)) := by
  have hlen : (s.atDestination (BitVec.ofNat 16 p.length) m src).len.toNat = p.length := toNat_ofNat_length hp
  have hacc : checksum (frameBody s.cfg m src dst p) =
      checksum (bytesToSource s.cfg (BitVec.ofNat 16 p.length) m src) + zext16 dst + checksum p := by
    rw [frameBody_eq_bytesToSource_append, checksum_append, checksum_cons, BitVec.add_assoc]
  rw [State.atChecksum, hacc]
  cases p with
  | nil =>
    rw [checksum_nil, BitVec.add_zero]
    exact feed_cons_silent (.dstZero rfl hlen) rfl (feed_nil_silent _)
  | cons b p =>
    have hpay := feed_cons_silent (.dstPay (b := dst) rfl (by rw [hlen]; exact Nat.succ_pos _) (hlen.trans_le hp)) rfl
      (feed_payload rfl (List.cons_ne_nil b p) ((Nat.zero_add _).trans hlen.symm) (hlen.trans_le hp))
    rw [hpay, State.afterPayload]
    simp only [State.atDestination, zero_add]
    rfl

/-- The header and the payload of a frame, fed from `Seeking`, emit nothing and are all held. -/
theorem feed_frameBody {s : State} (hs : s.st = .seeking) (m : Word16) (src dst : Byte) {p : List Byte}
    (hp : p.length ≤ maxPayload) :
    feed s (frameBody s.cfg m src dst p) = .next (s.atChecksum m src dst p, silent (8 + p.length)) := by
  have hrun := feed_append _ (feed_bytesToSource hs (BitVec.ofNat 16 p.length) m src) (feed_destination_payload s m src dst hp)
  have hcount : 7 + (p.length + 1) = 8 + p.length := by omega
  rwa [silent_append, hcount] at hrun

/-- Settles O42: `ACC` is loaded with the checksum of the markers and each later byte of the body is added once, so that the state
reached holds the checksum of the whole body. -/
theorem accumulatorAgreesWithChecksum : Obligations.AccumulatorAgreesWithChecksum := by
  intro s m src dst p _ hs hp
  exact ⟨s.atChecksum m src dst p, feed_frameBody hs m src dst hp, rfl, rfl⟩

end Sys2Proof.Machine
end

section
/-! SUPPORT. R97: the listing writes half registers with masks and shifts (R36), and each of the machine's byte operations is one
case of it. -/

namespace Sys2Proof.Machine

/-! ### Half registers by masks and shifts (R36) -/

theorem lowByte_or (v w : Word16) : lowByte (v ||| w) = lowByte v ||| lowByte w := BitVec.extractLsb'_or

theorem highByte_or (v w : Word16) : highByte (v ||| w) = highByte v ||| highByte w := BitVec.extractLsb'_or

theorem lowByte_and (v w : Word16) : lowByte (v &&& w) = lowByte v &&& lowByte w := BitVec.extractLsb'_and

theorem highByte_and (v w : Word16) : highByte (v &&& w) = highByte v &&& highByte w := BitVec.extractLsb'_and

theorem setWidth_eq_joinBytes (b : Byte) : BitVec.setWidth 16 b = joinBytes 0 b := by
  apply BitVec.eq_of_toNat_eq
  rw [joinBytes_toNat, ← zext16, zext16_toNat]
  simp

theorem setWidth_shiftLeft_eq_joinBytes (b : Byte) : BitVec.setWidth 16 b <<< 8 = joinBytes b 0 := by
  have := b.isLt
  apply BitVec.eq_of_toNat_eq
  rw [joinBytes_toNat, BitVec.toNat_shiftLeft, ← zext16, zext16_toNat, Nat.shiftLeft_eq]
  simp
  omega

/-- `w[7:0] <- b` (R83, R85, R93) as the listing writes it. -/
theorem withLowByte_eq_mask (w : Word16) (b : Byte) : withLowByte w b = (w &&& 0xFF00#16) ||| BitVec.setWidth 16 b := by
  rw [setWidth_eq_joinBytes]
  apply word_ext
  · have hmask : lowByte 0xFF00#16 = 0 := rfl
    simp [lowByte_or, lowByte_and, hmask]
  · have hmask : highByte 0xFF00#16 = BitVec.allOnes 8 := rfl
    rw [highByte_or, highByte_and, hmask, BitVec.and_allOnes]
    simp

/-- `w[15:8] <- b` (R84, R86, R94, R95) as the listing writes it. -/
theorem withHighByte_eq_mask (w : Word16) (b : Byte) :
    withHighByte w b = (w &&& 0x00FF#16) ||| (BitVec.setWidth 16 b <<< 8) := by
  rw [setWidth_shiftLeft_eq_joinBytes]
  apply word_ext
  · have hmask : lowByte 0x00FF#16 = BitVec.allOnes 8 := rfl
    rw [lowByte_or, lowByte_and, hmask, BitVec.and_allOnes]
    simp
  · have hmask : highByte 0x00FF#16 = 0 := rfl
    simp [highByte_or, highByte_and, hmask]

theorem rx_eq_mask (s : State) (b : Byte) : s.rx b = (s.rxck &&& 0x00FF#16) ||| (BitVec.setWidth 16 b <<< 8) :=
  withHighByte_eq_mask s.rxck b

/-! ### What every byte operation does -/

theorem ByteStep.cfg_eq {b : Byte} {s t : State} (h : ByteStep b s t) : t.cfg = s.cfg := by
  cases h <;> rfl

theorem ByteStep.input_eq {b : Byte} {s t : State} (h : ByteStep b s t) : t.input = s.input := by
  cases h <;> rfl

theorem State.countsOk_of_readingPayload {s : State} (hs : s.st = .readingPayload) :
    s.countsOk ↔ 1 ≤ s.len.toNat ∧ s.len.toNat ≤ maxPayload ∧ s.cnt.toNat < s.len.toNat := by
  simp only [State.countsOk, hs]

theorem State.countsOk_of_readingChecksum1 {s : State} (hs : s.st = .readingChecksum1) :
    s.countsOk ↔ s.len.toNat ≤ maxPayload ∧ s.cnt.toNat = s.len.toNat := by
  simp only [State.countsOk, hs]

/-- R76, R96: with `LEN` and `CNT` as R28 says, every byte has an operation. -/
theorem exists_byteStep {s : State} (hcounts : s.countsOk) (b : Byte) : ∃ t, ByteStep b s t := by
  cases hs : s.st
  case seeking =>
    by_cases hb : b = s.cfg.marker0
    · exact ⟨_, .seekHit hs hb⟩
    · exact ⟨_, .seekMiss hs hb⟩
  case matchedFirstMarker =>
    by_cases hb : b = s.cfg.marker1
    · exact ⟨_, .syncHit hs hb⟩
    · exact ⟨_, .syncMiss hs hb⟩
  case readingLength0 => exact ⟨_, .lenLo hs⟩
  case readingLength1 => exact ⟨_, .lenHi hs⟩
  case readingMessageId0 => exact ⟨_, .idLo hs⟩
  case readingMessageId1 => exact ⟨_, .idHi hs⟩
  case readingSource => exact ⟨_, .src hs⟩
  case readingDestination =>
    rcases Nat.lt_or_ge maxPayload s.len.toNat with hgt | hle
    · exact ⟨_, .dstDrop hs hgt⟩
    · rcases Nat.eq_zero_or_pos s.len.toNat with h0 | hpos
      · exact ⟨_, .dstZero hs h0⟩
      · exact ⟨_, .dstPay hs hpos hle⟩
  case readingPayload =>
    obtain ⟨-, hmax, hlt⟩ := (State.countsOk_of_readingPayload hs).mp hcounts
    have hc : s.cnt.toNat < maxPayload := hlt.trans_le hmax
    rcases Nat.lt_or_eq_of_le (Nat.succ_le_of_lt hlt) with hmore | hlast
    · exact ⟨_, .payMore hs hc hmore⟩
    · exact ⟨_, .payLast hs hc hlast⟩
  case readingChecksum0 => exact ⟨_, .ckLo hs⟩
  case readingChecksum1 =>
    obtain ⟨hmax, -⟩ := (State.countsOk_of_readingChecksum1 hs).mp hcounts
    by_cases hrx : s.rx b = s.acc
    · exact ⟨_, .ckOk hs hmax hrx⟩
    · exact ⟨_, .ckBad hs hrx⟩

/-- R97: each byte operation is the case of the listing that its state and its condition name. -/
theorem ByteStep.regs_event_eq_listing {b : Byte} {s t : State} (h : ByteStep b s t) :
    (t.regs, t.event) = listing s.cfg s.regs b := by
  cases h with
  | seekMiss hs hb | syncMiss hs hb | seekHit hs hb => simp [listing, State.regs, hs, hb]
  | syncHit hs hb => simp [listing, State.regs, hs, hb, ckSeed, zext16]
  | lenLo hs | idLo hs | ckLo hs => simp [listing, State.regs, hs, withLowByte_eq_mask, zext16]
  | lenHi hs | idHi hs => simp [listing, State.regs, hs, withHighByte_eq_mask, zext16]
  | src hs => simp [listing, State.regs, hs, zext16]
  | dstDrop hs hgt => simp [listing, State.regs, hs, hgt, zext16]
  | dstZero hs h0 => simp [listing, State.regs, hs, h0, zext16]
  | dstPay hs hge hle =>
    have hne : s.len.toNat ≠ 0 := by omega
    simp [listing, State.regs, hs, hle, hne, zext16]
  | payMore hs _ hlt => simp [listing, State.regs, hs, hlt.ne, zext16]
  | payLast hs _ heq => simp [listing, State.regs, hs, heq, zext16]
  | ckOk hs _ hrx => simp [listing, State.regs, State.snapshot, hs, ← rx_eq_mask, hrx]
  | ckBad hs hrx => simp [listing, State.regs, hs, ← rx_eq_mask, hrx]

/-! ### A cycle, by its pins -/

theorem step_of_rst {s : State} (hr : s.pins.rst = true) : step s = .next s.advance.unspecify := by
  rw [step_eq, if_pos hr]

/-- A cycle with a byte on the pins is the abstract step on that byte (R10, R147). -/
theorem step_of_byte {s : State} (hr : s.pins.rst = false) (hv : s.pins.inValid = true) :
    step s = step (s.advance.offered (Pins.offer s.pins.inData)) := by
  rw [step_eq, step_offer]
  simp only [hr, hv, Bool.false_eq_true, if_false, if_true]
  rfl

/-- Settles O34: the pins say RESET, no step, or a byte; under the invariants a byte has an operation, and that operation is a
case of the listing. -/
theorem machineRefinesTheListing : Obligations.MachineRefinesTheListing := by
  intro s hinv
  cases hr : s.pins.rst with
  | true => exact ⟨_, step_of_rst hr, rfl, rfl, fun _ => ⟨rfl, rfl⟩, nofun, nofun⟩
  | false =>
    cases hv : s.pins.inValid with
    | false => exact ⟨_, step_of_no_byte hr hv, rfl, rfl, nofun, fun _ _ => ⟨rfl, rfl⟩, nofun⟩
    | true =>
      obtain ⟨t, ht⟩ := exists_byteStep (s := s.advance) hinv.counts s.pins.inData
      exact ⟨t, (step_of_byte hr hv).trans (step_of_byteStep ht), ht.cfg_eq, ht.input_eq, nofun, nofun,
        fun _ _ => ht.regs_event_eq_listing⟩

end Sys2Proof.Machine
end

section
/-! SUPPORT. The operations one by one: IDLE, SEEK, the header bytes, the payload bytes and CK.LO, each with its effect, its
frame and its selection (R78 to R80, R83 to R87, R91 to R93). -/

namespace Sys2Proof.Machine

/-! ### The unsigned values of half registers (R36) -/

theorem withLowByte_toNat_mod (w : Word16) (b : Byte) : (withLowByte w b).toNat % 256 = b.toNat := by
  rw [← lowByte_toNat, lowByte_withLowByte]

theorem withLowByte_toNat_div (w : Word16) (b : Byte) : (withLowByte w b).toNat / 256 = w.toNat / 256 := by
  rw [← highByte_toNat, highByte_withLowByte, highByte_toNat]

theorem withHighByte_toNat_mod (w : Word16) (b : Byte) : (withHighByte w b).toNat % 256 = w.toNat % 256 := by
  rw [← lowByte_toNat, lowByte_withHighByte, lowByte_toNat]

theorem withHighByte_toNat_div (w : Word16) (b : Byte) : (withHighByte w b).toNat / 256 = b.toNat := by
  rw [← highByte_toNat, highByte_withHighByte]

/-! ### IDLE and SEEK -/

/-- Settles O5: IDLE only returns the event to `none`, and the wires alone select it. -/
theorem idleKeepsEveryRegister : Obligations.IdleKeepsEveryRegister := by
  intro s
  exact ⟨⟨_, rfl, rfl, fun _ => rfl, rfl, rfl⟩, step_offer_idle s⟩

/-- Settles O15: each SEEK operation writes `ST` alone, and the comparison with `MARKER0` selects one of them. -/
theorem seekOperations : Obligations.SeekOperations := by
  intro s b
  refine ⟨⟨_, rfl, rfl, fun _ => rfl⟩, ⟨_, rfl, rfl, fun _ => rfl⟩, ?miss, ?hit⟩
  case miss => exact fun hs hb => step_of_selectByte hs (if_neg hb)
  case hit => exact fun hs hb => step_of_selectByte hs (if_pos hb)

/-! ### The header bytes -/

/-- Settles O18: each length byte replaces its half of `LEN` and is added to `ACC`; `ST` alone selects it. -/
theorem lengthByteOperations : Obligations.LengthByteOperations := by
  intro s b
  have hacc := accAdd_toNat s.acc b
  refine ⟨⟨_, rfl, ?lowWritten, ?highKept, hacc, rfl, fun _ => rfl⟩,
    ⟨_, rfl, ?highWritten, ?lowKept, hacc, rfl, fun _ => rfl⟩,
    fun hs => step_of_selectByte hs rfl, fun hs => step_of_selectByte hs rfl⟩
  case lowWritten => exact withLowByte_toNat_mod s.len b
  case highKept => exact withLowByte_toNat_div s.len b
  case highWritten => exact withHighByte_toNat_div s.len b
  case lowKept => exact withHighByte_toNat_mod s.len b

/-- Settles O19: each message-identifier byte replaces its half of `MSGID` and is added to `ACC`; `ST` alone selects it. -/
theorem messageIdByteOperations : Obligations.MessageIdByteOperations := by
  intro s b
  have hacc := accAdd_toNat s.acc b
  refine ⟨⟨_, rfl, ?lowWritten, ?highKept, hacc, rfl, fun _ => rfl⟩,
    ⟨_, rfl, ?highWritten, ?lowKept, hacc, rfl, fun _ => rfl⟩,
    fun hs => step_of_selectByte hs rfl, fun hs => step_of_selectByte hs rfl⟩
  case lowWritten => exact withLowByte_toNat_mod s.msgid b
  case highKept => exact withLowByte_toNat_div s.msgid b
  case highWritten => exact withHighByte_toNat_div s.msgid b
  case lowKept => exact withHighByte_toNat_mod s.msgid b

/-- Settles O20: the source byte becomes `SRC` and is added to `ACC`; `ST` alone selects it. -/
theorem sourceByteOperation : Obligations.SourceByteOperation := by
  intro s b
  exact ⟨⟨_, rfl, accAdd_toNat s.acc b, rfl, fun _ => rfl⟩, fun hs => step_of_selectByte hs rfl⟩

/-! ### The payload bytes -/

/-- What `s` becomes when a payload byte is stored and `ST` goes to `st` (R91, R92). -/
def State.withPayloadByte (b : Byte) (st : ParserState) (s : State) : State :=
  { s with pay := s.pay.write s.cnt.toNat b, acc := s.acc + zext16 b, cnt := s.cnt + 1, st := st, event := .none }

theorem exec_payMore {s : State} (b : Byte) (hc : s.cnt.toNat < maxPayload) :
    exec (.payMore b) s = .next (s.withPayloadByte b .readingPayload) := by
  rw [exec, execPayMore, State.storePayload_of_lt hc]
  rfl

theorem exec_payLast {s : State} (b : Byte) (hc : s.cnt.toNat < maxPayload) :
    exec (.payLast b) s = .next (s.withPayloadByte b .readingChecksum0) := by
  rw [exec, execPayLast, State.storePayload_of_lt hc]
  rfl

/-- The effect and the frame that PAY.MORE and PAY.LAST share. -/
theorem withPayloadByte_effect {s : State} (b : Byte) (st : ParserState) (hc : s.cnt.toNat < maxPayload)
    (hwf : s.pay.wf = true) :
    (s.withPayloadByte b st).pay.read s.cnt.toNat = b ∧
      (∀ a, a ≠ s.cnt.toNat → (s.withPayloadByte b st).pay.read a = s.pay.read a) ∧
      (s.withPayloadByte b st).acc.toNat = (s.acc.toNat + b.toNat) % 65536 ∧
      (s.withPayloadByte b st).cnt.toNat = s.cnt.toNat + 1 := by
  have hread := Memory.read_write hwf s.cnt.toNat b
  exact ⟨(hread _).trans (if_pos rfl), fun a ha => (hread a).trans (if_neg ha), accAdd_toNat s.acc b, cnt_succ_toNat hc⟩

/-- Settles O22: both PAY operations store at `CNT` inside the buffer; `CNT + 1` against `LEN` selects one of them, and the
invariants leave no third case. -/
theorem payloadByteOperations : Obligations.PayloadByteOperations := by
  intro s b hc hwf
  refine ⟨⟨_, exec_payMore b hc, ?more⟩, ⟨_, exec_payLast b hc, ?last⟩, ?selectMore, ?selectLast, ?bound⟩
  case more =>
    obtain ⟨hcell, hrest, hacc, hcnt⟩ := withPayloadByte_effect b .readingPayload hc hwf
    exact ⟨hcell, hrest, hacc, hcnt, rfl⟩
  case last =>
    obtain ⟨hcell, hrest, hacc, hcnt⟩ := withPayloadByte_effect b .readingChecksum0 hc hwf
    exact ⟨hcell, hrest, hacc, hcnt, rfl⟩
  case selectMore => exact fun hs hlt => (step_of_byteStep (.payMore hs hc hlt)).trans (exec_payMore b hc).symm
  case selectLast => exact fun hs heq => (step_of_byteStep (.payLast hs hc heq)).trans (exec_payLast b hc).symm
  case bound =>
    intro hinv hs
    obtain ⟨-, hmax, hlt⟩ := (State.countsOk_of_readingPayload hs).mp hinv.counts
    exact ⟨hlt, hmax⟩

/-! ### CK.LO -/

/-- Settles O24: the low checksum byte replaces its half of `RXCK` and is not added to `ACC`; `ST` alone selects it. -/
theorem checksumLowByteOperation : Obligations.ChecksumLowByteOperation := by
  intro s b
  refine ⟨⟨_, rfl, ?_, ?_, rfl, fun _ => rfl⟩, fun hs => step_of_selectByte hs rfl⟩
  · exact withLowByte_toNat_mod s.rxck b
  · exact withLowByte_toNat_div s.rxck b

end Sys2Proof.Machine
end

section
/-! SUPPORT. What every byte operation keeps, and hence every run: the markers, the canonical form of the buffer (R33), and
`LEN` and `CNT` as R28 says. A run on any pins therefore completes (R76, R110). -/

namespace Sys2Proof.Machine

/-! ### One byte -/

/-- R28 items b, c and e, kept by every byte. -/
theorem ByteStep.countsOk {b : Byte} {s t : State} (h : ByteStep b s t) (hs : s.countsOk) : t.countsOk := by
  cases h with
  | seekMiss | seekHit | syncMiss | dstDrop | ckOk | ckBad => trivial
  | syncHit => rfl
  | lenLo h | lenHi h | idLo h | idHi h | src h | ckLo h => simpa only [State.countsOk, h] using hs
  | dstZero h h0 =>
    simp only [State.countsOk, h] at hs
    exact ⟨h0.trans_le (Nat.zero_le _), hs.trans h0.symm⟩
  | dstPay h hpos hmax =>
    simp only [State.countsOk, h] at hs
    exact ⟨hpos, hmax, hs.trans_lt hpos⟩
  | payMore h hc hlt =>
    obtain ⟨hpos, hmax, -⟩ := (State.countsOk_of_readingPayload h).mp hs
    exact ⟨hpos, hmax, (cnt_succ_toNat hc).trans_lt hlt⟩
  | payLast h hc heq =>
    obtain ⟨-, hmax, -⟩ := (State.countsOk_of_readingPayload h).mp hs
    exact ⟨hmax, (cnt_succ_toNat hc).trans heq⟩

/-- Only the two PAY operations write the buffer, at `CNT`, which is inside it (R35, R91, R92). -/
theorem ByteStep.pay_eq_or_write {b : Byte} {s t : State} (h : ByteStep b s t) :
    t.pay = s.pay ∨ s.st = .readingPayload ∧ s.cnt.toNat < maxPayload ∧ t.pay = s.pay.write s.cnt.toNat b := by
  cases h with
  | payMore hs hc | payLast hs hc => exact .inr ⟨hs, hc, rfl⟩
  | _ => exact .inl rfl

theorem ByteStep.payWf {b : Byte} {s t : State} (h : ByteStep b s t) (hs : s.pay.wf = true) : t.pay.wf = true := by
  rcases h.pay_eq_or_write with hpay | ⟨-, hc, hpay⟩
  · rwa [hpay]
  · rw [hpay]
    exact Memory.write_wf b hs hc

/-! ### Runs on bytes -/

/-- What every byte keeps, a run on bytes keeps. -/
theorem feed_keeps {P : State → Prop} (hP : ∀ {b s t}, ByteStep b s t → P s → P t) {t : State} {es : List Event} :
    ∀ {bs : List Byte} {s : State}, feed s bs = .next (t, es) → P s → P t
  | [], _, h, hs => by cases h; exact hs
  | _ :: _, _, h, hs => by
    obtain ⟨_, _, hu, hrest, -⟩ := feed_cons_cases h
    exact feed_keeps hP hrest (hP hu hs)

theorem feed_cfg {s t : State} {bs : List Byte} {es : List Event} (h : feed s bs = .next (t, es)) : t.cfg = s.cfg :=
  feed_keeps (P := fun u => u.cfg = s.cfg) (fun hu hs => hu.cfg_eq.trans hs) h rfl

theorem feed_payWf {s t : State} {bs : List Byte} {es : List Event} (h : feed s bs = .next (t, es))
    (hs : s.pay.wf = true) : t.pay.wf = true :=
  feed_keeps (P := fun u => u.pay.wf = true) ByteStep.payWf h hs

/-! ### Any cycle, and runs on any pins -/

/-- With `LEN` and `CNT` as R28 says, a cycle completes whatever the pins carry, and leaves them so. -/
theorem exists_step {s : State} (hs : s.countsOk) : ∃ t, step s = .next t ∧ t.countsOk ∧ t.cfg = s.cfg := by
  cases hr : s.pins.rst with
  | true => exact ⟨_, step_of_rst hr, trivial, rfl⟩
  | false =>
    cases hv : s.pins.inValid with
    | false => exact ⟨_, step_of_no_byte hr hv, hs, rfl⟩
    | true =>
      obtain ⟨t, ht⟩ := exists_byteStep (s := s.advance) hs s.pins.inData
      exact ⟨t, (step_of_byte hr hv).trans (step_of_byteStep ht), ht.countsOk hs, ht.cfg_eq⟩

theorem exists_runPins : ∀ (ps : List Pins) {s : State}, s.countsOk →
    ∃ t es, runPins s ps = .next (t, es) ∧ t.cfg = s.cfg
  | [], s, _ => ⟨s, [], rfl, rfl⟩
  | p :: ps, s, hs => by
    obtain ⟨t, ht, hcounts, hcfg⟩ := exists_step (s := s.offered p) hs
    obtain ⟨u, es, hrun, hcfg'⟩ := exists_runPins ps hcounts
    exact ⟨u, _, runPins_cons_next ht hrun, hcfg'.trans hcfg⟩

/-- Settles O33: a cycle of a state of the invariants is one of the listing, so it completes and consumes its pins. -/
theorem stepAlwaysCompletes : Obligations.StepAlwaysCompletes := by
  intro s hinv
  obtain ⟨t, ht, -, hinput, -⟩ := machineRefinesTheListing s hinv
  exact ⟨t, ht, hinput⟩

end Sys2Proof.Machine
end

section
/-! SUPPORT. A whole frame fed from `Seeking`. `Framed` is what R50 says of a valid frame but the checksum: such a string is
consumed to its last byte, where the comparison with the checksum field decides the one event (R54, R94, R95). -/

namespace Sys2Proof.Machine

/-! ### The checksum bytes -/

/-- What the comparison of R69 reads after CK.LO: the two bytes of the checksum field (R93). -/
theorem State.rx_withLowByte (s : State) (c0 c1 : Byte) (st : ParserState) :
    State.rx c1 { s with rxck := withLowByte s.rxck c0, st := st, event := .none } = joinBytes c1 c0 := by
  simp [State.rx]

theorem feed_checksum_eq {s : State} {c0 c1 : Byte} (hs : s.st = .readingChecksum0) (hmax : s.len.toNat ≤ maxPayload)
    (hck : joinBytes c1 c0 = s.acc) :
    ∃ t, feed s [c0, c1] = .next (t, [.none, .frameOk (s.snapshot (s.pay.readList s.len.toNat) (joinBytes c1 c0))]) ∧
      t.st = .seeking := by
  have hrx := State.rx_withLowByte s c0 c1 .readingChecksum1
  have hrun := feed_cons_next (step_of_byteStep (.ckLo hs)) <|
    feed_cons_next (step_of_byteStep (.ckOk rfl hmax (hrx.trans hck))) (feed_nil _)
  rw [hrx] at hrun
  exact ⟨_, hrun, rfl⟩

theorem feed_checksum_ne {s : State} {c0 c1 : Byte} (hs : s.st = .readingChecksum0) (hck : joinBytes c1 c0 ≠ s.acc) :
    ∃ t, feed s [c0, c1] = .next (t, [.none, .malformed s.src]) ∧ t.st = .seeking :=
  ⟨_, feed_cons_next (step_of_byteStep (.ckLo hs)) <|
    feed_cons_next (step_of_byteStep (.ckBad rfl (State.rx_withLowByte s c0 c1 _ ▸ hck))) (feed_nil _), rfl⟩

/-! ### The body and the checksum bytes -/

theorem silent_append_none (n : Nat) (e : Event) : silent n ++ [.none, e] = silent (n + 1) ++ [e] := by
  simp [silent, List.replicate_succ']

/-- The buffer after a frame's payload holds the payload sent. -/
theorem State.readList_atChecksum {s : State} (hwf : s.pay.wf = true) (m : Word16) (src dst : Byte) {p : List Byte}
    (hp : p.length ≤ maxPayload) : (s.atChecksum m src dst p).pay.readList p.length = p := by
  simpa [State.atChecksum, Memory.readList] using Memory.readList_writeList (n := 0) p hwf (by omega)

section
variable {s : State} {p : List Byte} {c0 c1 : Byte}

theorem feed_frameBody_append (hs : s.st = .seeking) (m : Word16) (src dst : Byte) (hp : p.length ≤ maxPayload) {e : Event}
    (hck : ∃ t, feed (s.atChecksum m src dst p) [c0, c1] = .next (t, [.none, e]) ∧ t.st = .seeking) :
    ∃ t, feed s (frameBody s.cfg m src dst p ++ [c0, c1]) = .next (t, silent (9 + p.length) ++ [e]) ∧ t.st = .seeking := by
  obtain ⟨t, hfeed, ht⟩ := hck
  have hrun := feed_append _ (feed_frameBody hs m src dst hp) hfeed
  rw [silent_append_none, Nat.add_right_comm] at hrun
  exact ⟨t, hrun, ht⟩

/-- R94: a frame with the right checksum is delivered at its last byte. -/
theorem feed_frameBody_checksum_eq (hs : s.st = .seeking) (hwf : s.pay.wf = true) (m : Word16) (src dst : Byte)
    (hp : p.length ≤ maxPayload) (hck : joinBytes c1 c0 = checksum (frameBody s.cfg m src dst p)) :
    ∃ t, feed s (frameBody s.cfg m src dst p ++ [c0, c1]) =
      .next (t, silent (9 + p.length) ++ [.frameOk (sentFrame s.cfg m src dst p)]) ∧ t.st = .seeking := by
  have hlen : (s.atChecksum m src dst p).len.toNat = p.length := toNat_ofNat_length hp
  have hevent := feed_checksum_eq (s := s.atChecksum m src dst p) rfl (hlen.trans_le hp) hck
  rw [hlen, State.readList_atChecksum hwf m src dst hp, hck] at hevent
  exact feed_frameBody_append hs m src dst hp hevent

/-- R95: a frame with a wrong checksum is reported at its last byte. -/
theorem feed_frameBody_checksum_ne (hs : s.st = .seeking) (m : Word16) (src dst : Byte) (hp : p.length ≤ maxPayload)
    (hck : joinBytes c1 c0 ≠ checksum (frameBody s.cfg m src dst p)) :
    ∃ t, feed s (frameBody s.cfg m src dst p ++ [c0, c1]) = .next (t, silent (9 + p.length) ++ [.malformed src]) ∧
      t.st = .seeking :=
  feed_frameBody_append hs m src dst hp (feed_checksum_ne (s := s.atChecksum m src dst p) rfl hck)

end

/-! ### Strings with the form of a frame -/

/-- R50 but for the checksum: the markers, and a length field of at most 128 that says where the string ends. -/
structure Framed (cfg : Config) (bs : List Byte) : Prop where
  marker0 : bs.getD 0 0 = cfg.marker0
  marker1 : bs.getD 1 0 = cfg.marker1
  max     : (wireWord bs 2).toNat ≤ maxPayload
  length  : bs.length = 10 + (wireWord bs 2).toNat

theorem validFrame_iff_framed {cfg : Config} {bs : List Byte} :
    validFrame cfg bs = true ↔ Framed cfg bs ∧
      wireWord bs (8 + (wireWord bs 2).toNat) = checksum (bs.take (8 + (wireWord bs 2).toNat)) := by
  rw [validFrame_iff]
  exact ⟨fun ⟨h0, h1, hmax, hlen, hck⟩ => ⟨⟨h0, h1, hmax, hlen⟩, hck⟩,
    fun ⟨⟨h0, h1, hmax, hlen⟩, hck⟩ => ⟨h0, h1, hmax, hlen, hck⟩⟩

section
variable {cfg : Config} {bs : List Byte} (h : Framed cfg bs)
include h

theorem Framed.length_payload : (readFrame bs).payload.length = (wireWord bs 2).toNat := by
  have := h.length
  simp only [readFrame, List.length_take, List.length_drop]
  omega

/-- The bytes before the checksum field are the header and the payload that the receiver reads (R102). -/
theorem Framed.frameBody_eq : frameBody cfg (readFrame bs).messageId (readFrame bs).source (readFrame bs).destination
    (readFrame bs).payload = bs.take (8 + (wireWord bs 2).toNat) := by
  have hlen := h.length
  rw [List.take_add, take_eight_eq_getD (by omega), h.marker0, h.marker1, frameBody, h.length_payload]
  simp only [readFrame, BitVec.ofNat_toNat, BitVec.setWidth_eq, lowByte_wireWord, highByte_wireWord]

/-- The string is that body and the checksum field. -/
theorem Framed.eq_frameBody_append : bs = frameBody cfg (readFrame bs).messageId (readFrame bs).source
    (readFrame bs).destination (readFrame bs).payload ++ [lowByte (readFrame bs).checksum, highByte (readFrame bs).checksum] := by
  rw [h.frameBody_eq]
  exact (take_append_wireWord (k := 8 + (wireWord bs 2).toNat) (by have := h.length; omega)).symm

end

/-- The frame that a string with the form of a frame and the right checksum carries, is the one sent with the fields read. -/
theorem Framed.sentFrame_eq {cfg : Config} {bs : List Byte} (h : Framed cfg bs)
    (hck : (readFrame bs).checksum = checksum (bs.take (8 + (wireWord bs 2).toNat))) :
    sentFrame cfg (readFrame bs).messageId (readFrame bs).source (readFrame bs).destination (readFrame bs).payload =
      readFrame bs := by
  rw [sentFrame, h.frameBody_eq, h.length_payload, ← hck, BitVec.ofNat_toNat, BitVec.setWidth_eq]
  rfl

theorem Framed.feed_checksum_eq {s : State} {bs : List Byte} (h : Framed s.cfg bs) (hs : s.st = .seeking)
    (hwf : s.pay.wf = true)
    (hck : wireWord bs (8 + (wireWord bs 2).toNat) = checksum (bs.take (8 + (wireWord bs 2).toNat))) :
    ∃ t, feed s bs = .next (t, silent (bs.length - 1) ++ [.frameOk (readFrame bs)]) ∧ t.st = .seeking := by
  have hfeed := feed_frameBody_checksum_eq hs hwf (readFrame bs).messageId (readFrame bs).source (readFrame bs).destination
    (h.length_payload.trans_le h.max) (c0 := lowByte (readFrame bs).checksum) (c1 := highByte (readFrame bs).checksum)
    (by rw [joinBytes_high_low, h.frameBody_eq]; exact hck)
  rwa [← h.eq_frameBody_append, h.sentFrame_eq hck, h.length_payload,
    show 9 + (wireWord bs 2).toNat = bs.length - 1 by rw [h.length]; omega] at hfeed

theorem Framed.feed_checksum_ne {s : State} {bs : List Byte} (h : Framed s.cfg bs) (hs : s.st = .seeking)
    (hck : wireWord bs (8 + (wireWord bs 2).toNat) ≠ checksum (bs.take (8 + (wireWord bs 2).toNat))) :
    ∃ t, feed s bs = .next (t, silent (bs.length - 1) ++ [.malformed (bs.getD 6 0)]) ∧ t.st = .seeking := by
  have hfeed := feed_frameBody_checksum_ne hs (readFrame bs).messageId (readFrame bs).source (readFrame bs).destination
    (h.length_payload.trans_le h.max) (c0 := lowByte (readFrame bs).checksum) (c1 := highByte (readFrame bs).checksum)
    (by rw [joinBytes_high_low, h.frameBody_eq]; exact hck)
  rwa [← h.eq_frameBody_append, h.length_payload,
    show 9 + (wireWord bs 2).toNat = bs.length - 1 by rw [h.length]; omega] at hfeed

/-- R104 in the receiver's terms: a valid frame is delivered at its last byte, with the fields read from it. -/
theorem feed_validFrame {s : State} {F : List Byte} (hs : s.st = .seeking) (hwf : s.pay.wf = true)
    (hF : validFrame s.cfg F = true) :
    ∃ t, feed s F = .next (t, silent (F.length - 1) ++ [.frameOk (readFrame F)]) ∧ t.st = .seeking := by
  obtain ⟨hframed, hck⟩ := validFrame_iff_framed.mp hF
  exact hframed.feed_checksum_eq hs hwf hck

end Sys2Proof.Machine
end

section
/-! SUPPORT. Framing round-trip (R104): the operations that an encoding performs, part by part, and the event at its last byte. -/

namespace Sys2Proof.Machine

/-! ### The operation of a byte, by its condition (R62) -/

section
variable {s : State} (b : Byte)

theorem selectByte_dstZero (h0 : s.len.toNat = 0) : selectByte s.selRegs .readingDestination b = .ok (.dstZero b) := by
  have hle : ¬ maxPayload < s.len.toNat := by omega
  exact (if_neg hle).trans (if_pos ((word_eq_zero_iff s.len).mpr h0))

theorem selectByte_dstPay (hpos : 1 ≤ s.len.toNat) (hmax : s.len.toNat ≤ maxPayload) :
    selectByte s.selRegs .readingDestination b = .ok (.dstPay b) := by
  have hne : s.len ≠ 0 := fun h => absurd ((word_eq_zero_iff s.len).mp h) (by omega)
  exact (if_neg (Nat.not_lt.mpr hmax)).trans (if_neg hne)

theorem selectByte_payMore (hc : s.cnt.toNat < maxPayload) (hlt : s.cnt.toNat + 1 < s.len.toNat) :
    selectByte s.selRegs .readingPayload b = .ok (.payMore b) := if_pos ((cntSucc_lt_iff hc).mpr hlt)

theorem selectByte_payLast (hc : s.cnt.toNat < maxPayload) (heq : s.cnt.toNat + 1 = s.len.toNat) :
    selectByte s.selRegs .readingPayload b = .ok (.payLast b) := by
  have hnlt : ¬ cntSucc s.cnt < s.len := fun h => absurd ((cntSucc_lt_iff hc).mp h) (by omega)
  exact (if_neg hnlt).trans (if_pos ((cntSucc_eq_iff hc).mpr heq))

end

/-! ### The operations of the parts of a frame -/

theorem operations_cons_byteStep {s t : State} {st : ParserState} {b : Byte} {bs : List Byte} {i : Instr} {ops : List Instr}
    (hs : s.st = st) (hi : selectByte s.selRegs st b = .ok i) (h : ByteStep b s t) (hrest : operations t bs = ops) :
    operations s (b :: bs) = i :: ops := by
  rw [operations_cons (hs ▸ hi) (step_of_byteStep h), hrest]

theorem operations_bytesToSource {s : State} (hs : s.st = .seeking) (n m : Word16) (src : Byte) :
    operations s (bytesToSource s.cfg n m src) =
      [.seekHit s.cfg.marker0, .syncHit s.cfg.marker1, .lenLo (lowByte n), .lenHi (highByte n), .idLo (lowByte m),
        .idHi (highByte m), .src src] :=
  operations_cons_byteStep hs (if_pos rfl) (.seekHit hs rfl) <|
  operations_cons_byteStep rfl (if_pos rfl) (.syncHit rfl rfl) <| operations_cons_byteStep rfl rfl (.lenLo rfl) <|
  operations_cons_byteStep rfl rfl (.lenHi rfl) <| operations_cons_byteStep rfl rfl (.idLo rfl) <|
  operations_cons_byteStep rfl rfl (.idHi rfl) <| operations_cons_byteStep rfl rfl (.src rfl) <| operations_nil _

/-- R104: the rest of a payload performs PAY.MORE for each of its bytes but the last, and PAY.LAST for that. -/
theorem operations_payload : ∀ {s : State} {p : List Byte}, s.st = .readingPayload → p ≠ [] →
    s.cnt.toNat + p.length = s.len.toNat → s.len.toNat ≤ maxPayload →
    operations s p = (p.take (p.length - 1)).map .payMore ++ (p.drop (p.length - 1)).map .payLast
  | s, [b], hs, _, hlen, hmax => by
    rw [List.length_singleton] at hlen
    have hc : s.cnt.toNat < maxPayload := by omega
    exact operations_cons_byteStep hs (selectByte_payLast b hc hlen) (.payLast hs hc hlen) (operations_nil _)
  | s, b :: c :: p, hs, _, hlen, hmax => by
    simp only [List.length_cons] at hlen
    have hc : s.cnt.toNat < maxPayload := by omega
    have hmore : s.cnt.toNat + 1 < s.len.toNat := by omega
    refine operations_cons_byteStep hs (selectByte_payMore b hc hmore) (.payMore hs hc hmore) <|
      operations_payload (p := c :: p) rfl (List.cons_ne_nil c p) ?_ hmax
    change (s.cnt + 1).toNat + (p.length + 1) = s.len.toNat
    rw [cnt_succ_toNat hc]
    omega

theorem operations_destination_payload (s : State) (m : Word16) (src dst : Byte) {p : List Byte}
    (hp : p.length ≤ maxPayload) :
    operations (s.atDestination (BitVec.ofNat 16 p.length) m src) (dst :: p) =
      if p.length = 0 then [.dstZero dst]
      else .dstPay dst :: ((p.take (p.length - 1)).map .payMore ++ (p.drop (p.length - 1)).map .payLast) := by
  have hlen : (s.atDestination (BitVec.ofNat 16 p.length) m src).len.toNat = p.length := toNat_ofNat_length hp
  cases p with
  | nil => exact operations_cons_byteStep rfl (selectByte_dstZero dst hlen) (.dstZero rfl hlen) (operations_nil _)
  | cons b p =>
    have hpos := Nat.lt_of_lt_of_eq (Nat.succ_pos p.length) hlen.symm
    have hmax := hlen.trans_le hp
    exact operations_cons_byteStep rfl (selectByte_dstPay dst hpos hmax) (.dstPay rfl hpos hmax) <|
      operations_payload rfl (List.cons_ne_nil b p) ((Nat.zero_add _).trans hlen.symm) hmax

theorem operations_checksum_eq {s : State} {c0 c1 : Byte} (hs : s.st = .readingChecksum0) (hmax : s.len.toNat ≤ maxPayload)
    (hck : joinBytes c1 c0 = s.acc) : operations s [c0, c1] = [.ckLo c0, .ckOk c1] := by
  have hrx := (State.rx_withLowByte s c0 c1 .readingChecksum1).trans hck
  exact operations_cons_byteStep hs rfl (.ckLo hs) <|
    operations_cons_byteStep rfl (if_pos hrx) (.ckOk rfl hmax hrx) (operations_nil _)

/-- Settles O43: the body of the frame leaves the fields sent and the checksum sent in the registers, so that the comparison
succeeds; the operations are those of the header, the destination and the payload, and the checksum, in turn. -/
theorem framingRoundTrip : Obligations.FramingRoundTrip := by
  intro s m src dst p bs hinv hs henc
  obtain ⟨hp, rfl⟩ := encodeFrame_eq_some_iff.mp henc
  have hck := joinBytes_high_low (checksum (frameBody s.cfg m src dst p))
  refine ⟨feed_frameBody_checksum_eq hs hinv.payWf m src dst hp hck, ?_⟩
  rw [operations_append (feed_frameBody hs m src dst hp), frameBody_eq_bytesToSource_append,
    operations_append (feed_bytesToSource hs _ m src), operations_bytesToSource hs,
    operations_destination_payload s m src dst hp,
    operations_checksum_eq rfl ((toNat_ofNat_length hp).trans_le hp) hck]
  rfl

end Sys2Proof.Machine
end

section
/-! SUPPORT. Streams of frames: frames back to back (R105), after other bytes (R106), after RESET (R77, R135). -/

namespace Sys2Proof.Machine

/-- Settles O46, by induction on the frames: each is delivered, and leaves the parser in `Seeking` with the same markers. -/
theorem backToBackFramesNeedNoGap : Obligations.BackToBackFramesNeedNoGap := by
  intro s fs hinv
  have hwf := hinv.payWf
  clear hinv
  induction fs generalizing s with
  | nil => exact fun hs _ => ⟨s, rfl, hs⟩
  | cons F fs ih =>
    intro hs hvalid
    obtain ⟨t, hfeed, ht⟩ := feed_validFrame hs hwf (hvalid F List.mem_cons_self)
    obtain ⟨u, hrest, hu⟩ := ih t (feed_payWf hfeed hwf) ht fun G hG =>
      (feed_cfg hfeed).symm ▸ hvalid G (List.mem_cons_of_mem F hG)
    exact ⟨u, feed_append _ hfeed hrest, hu⟩

/-! ### Noise -/

/-- R79: in `Seeking`, bytes other than `MARKER0` are skipped in silence. -/
theorem feed_noise : ∀ {g : List Byte} {s : State}, s.st = .seeking → s.cfg.marker0 ∉ g →
    ∃ t, feed s g = .next (t, silent g.length) ∧ t.st = .seeking
  | [], s, hs, _ => ⟨s, rfl, hs⟩
  | b :: g, s, hs, hg => by
    obtain ⟨hb, hg⟩ := List.ne_and_not_mem_of_not_mem_cons hg
    have hmiss := ByteStep.seekMiss hs hb.symm
    obtain ⟨t, hfeed, ht⟩ := feed_noise (s := { s with st := .seeking, event := .none }) rfl hg
    exact ⟨t, feed_cons_silent hmiss rfl hfeed, ht⟩

/-- Settles O47: the run on the string keeps the markers and the buffer's form, so that a frame after it is delivered. -/
theorem resynchronisationExactForm : Obligations.ResynchronisationExactForm := by
  intro s g F hinv hF
  refine ⟨fun t es hfeed ht => ?_, feed_noise⟩
  obtain ⟨u, hframe, hu⟩ := feed_validFrame ht (feed_payWf hfeed hinv.payWf) ((feed_cfg hfeed).symm ▸ hF)
  refine ⟨u, ?_, hu⟩
  rw [List.append_assoc]
  exact feed_append F hfeed hframe

/-- Settles O45: SEEK.HIT on the stray byte, SYNC.MISS on the frame's own first marker, then noise. -/
theorem strayMarkerHidesTheNextFrame : Obligations.StrayMarkerHidesTheNextFrame := by
  intro s F hs hne hF hnoise
  obtain ⟨hframed, -⟩ := validFrame_iff_framed.mp hF
  cases F with
  | nil => exact absurd hframed.length (by rw [List.length_nil]; omega)
  | cons b F =>
    have hb : b = s.cfg.marker0 := hframed.marker0
    obtain ⟨t, hfeed, ht⟩ := feed_noise (s := { s with st := .seeking, event := .none, readable := 0 }) rfl hnoise
    exact ⟨t, feed_cons_silent (.seekHit hs rfl) rfl <| feed_cons_silent (.syncMiss rfl (hb ▸ hne)) rfl hfeed, ht⟩

/-! ### RESET -/

/-- Settles O54: under the invariants the run up to RESET completes; RESET leaves `Seeking`, the markers and a buffer in its
canonical form, so that the frame is delivered. -/
theorem resetThenFrameIsParsed : Obligations.ResetThenFrameIsParsed := by
  intro s ps F hinv hF
  obtain ⟨u, es, hrun, hcfg⟩ := exists_runPins ps hinv.counts
  obtain ⟨t, hfeed, ht⟩ := feed_validFrame (s := u.unspecify) rfl (Memory.ofFn_wf _) (hcfg.symm ▸ hF)
  exact ⟨t, u, es, hrun, runPins_append _ hrun (runPins_cons_next (step_offer_reset u false 0) hfeed), ht⟩

end Sys2Proof.Machine
end

section
/-! SUPPORT. Single cycles: which of them emit (R108, R144), which of them write the buffer (R112), and cycles with no byte (R78,
R111). -/

namespace Sys2Proof.Machine

/-! ### Events -/

/-- A byte emits only in `ReadingChecksum(1)`, where the comparison decides which event it is, and the parser is then in `Seeking`
(R94, R95, R108). -/
theorem ByteStep.event_cases {b : Byte} {s t : State} (h : ByteStep b s t) :
    t.event = .none ∨ s.st = .readingChecksum1 ∧ t.st = .seeking ∧
      (s.rx b = s.acc ∧ (∃ f, t.event = .frameOk f) ∨ s.rx b ≠ s.acc ∧ t.event = .malformed s.src) := by
  cases h with
  | ckOk hs _ hrx => exact .inr ⟨hs, rfl, .inl ⟨hrx, _, rfl⟩⟩
  | ckBad hs hrx => exact .inr ⟨hs, rfl, .inr ⟨hrx, rfl⟩⟩
  | _ => exact .inl rfl

/-- The same of a cycle: an event needs a byte consumed. -/
theorem step_event_cases {s t : State} (h : step s = .next t) :
    t.event = .none ∨ (s.pins.rst = false ∧ s.pins.inValid = true) ∧ s.st = .readingChecksum1 ∧
      (s.rx s.pins.inData = s.acc ∧ (∃ f, t.event = .frameOk f) ∨
        s.rx s.pins.inData ≠ s.acc ∧ t.event = .malformed s.src) := by
  obtain ⟨-, rfl⟩ | ⟨-, -, rfl⟩ | ⟨hr, hv, hbyte⟩ := step_cases h
  · exact .inl rfl
  · exact .inl rfl
  · exact hbyte.event_cases.imp_right fun ⟨hs, _, hevent⟩ => ⟨⟨hr, hv⟩, hs, hevent⟩

theorem State.frameValid_iff (s : State) : s.frameValid = true ↔ ∃ f, s.event = .frameOk f := by
  cases h : s.event <;> simp [State.frameValid, h]

theorem State.errValid_iff (s : State) : s.errValid = true ↔ ∃ x, s.event = .malformed x := by
  cases h : s.event <;> simp [State.errValid, h]

theorem step_of_decode {s : State} {i : Instr} (h : decode s.selRegs s.key = .ok i) : step s = exec i s.advance := by
  rw [step, h]

/-- In `ReadingChecksum(1)` the comparison with `ACC` selects CK.OK or CK.BAD (R62). -/
theorem decode_key_of_readingChecksum1 {s : State} (hr : s.pins.rst = false) (hv : s.pins.inValid = true)
    (hs : s.st = .readingChecksum1) : decode s.selRegs s.key =
      if s.rx s.pins.inData = s.acc then .ok (.ckOk s.pins.inData) else .ok (.ckBad s.pins.inData) := by
  rw [State.key, decode_mkKey, hr, hv, hs]
  rfl

theorem exec_ckOk_event {s t : State} {b : Byte} (h : exec (.ckOk b) s = .next t) : ∃ f, t.event = .frameOk f := by
  rw [exec, execCkOk] at h
  split at h
  · cases h
    exact ⟨_, rfl⟩
  · cases h

theorem exec_ckBad_event {s t : State} {b : Byte} (h : exec (.ckBad b) s = .next t) : ∃ x, t.event = .malformed x := by
  cases h
  exact ⟨_, rfl⟩

/-- Settles O39: an event comes of the comparison of R69 alone, whose outcome is also what selects CK.OK or CK.BAD. -/
theorem onlyChecksumHighByteEmits : Obligations.OnlyChecksumHighByteEmits := by
  intro s t hstep
  rw [State.frameValid_iff, State.errValid_iff]
  refine ⟨⟨fun ⟨f, hf⟩ => ?ok, fun ⟨b, hb⟩ => exec_ckOk_event ((step_of_decode hb).symm.trans hstep)⟩,
    ⟨fun ⟨x, hx⟩ => ?bad, fun ⟨b, hb⟩ => exec_ckBad_event ((step_of_decode hb).symm.trans hstep)⟩, fun hne => ?only,
    fun ⟨⟨f, hf⟩, x, hx⟩ => by rw [hf] at hx; cases hx⟩
  all_goals obtain hnone | ⟨⟨hr, hv⟩, hs, hevent⟩ := step_event_cases hstep
  case ok.inl => rw [hf] at hnone; cases hnone
  case ok.inr =>
    obtain ⟨hrx, -⟩ | ⟨-, hbad⟩ := hevent
    · exact ⟨_, (decode_key_of_readingChecksum1 hr hv hs).trans (if_pos hrx)⟩
    · rw [hf] at hbad; cases hbad
  case bad.inl => rw [hx] at hnone; cases hnone
  case bad.inr =>
    obtain ⟨-, f, hok⟩ | ⟨hrx, -⟩ := hevent
    · rw [hx] at hok; cases hok
    · exact ⟨_, (decode_key_of_readingChecksum1 hr hv hs).trans (if_neg hrx)⟩
  case only.inl => exact absurd hnone hne
  case only.inr => exact ⟨hs, hr, hv⟩

/-! ### The buffer -/

/-- Settles O37: without RESET only a PAY operation writes the buffer, at `CNT`, which R28 item c keeps below `LEN`. -/
theorem payloadWritesStayBelowLength : Obligations.PayloadWritesStayBelowLength := by
  intro s t a hinv hr hstep hne
  obtain ⟨hr', -⟩ | ⟨-, -, rfl⟩ | ⟨-, hv, hbyte⟩ := step_cases hstep
  · exact absurd (hr.symm.trans hr') (by decide)
  · exact absurd rfl hne
  · obtain hpay | ⟨hs, -, hpay⟩ := hbyte.pay_eq_or_write
    · exact absurd (by rw [hpay]; rfl) hne
    · obtain ⟨-, hmax, hlt⟩ := (State.countsOk_of_readingPayload hs).mp hinv.counts
      have hread := Memory.read_write hinv.payWf s.cnt.toNat s.pins.inData a
      have ha : a = s.cnt.toNat := by
        by_contra hcell
        exact hne (by rw [hpay]; exact hread.trans (if_neg hcell))
      exact ⟨hs, hv, ha, ha ▸ hlt, hmax⟩

/-! ### Cycles with no byte -/

/-- Settles O6, by induction on the number of cycles: the first clears the event, and the others find it cleared. -/
theorem stalledInputHoldsTheState : Obligations.StalledInputHoldsTheState := by
  intro n
  induction n with
  | zero => exact fun s => runPins_cons_next (step_offer_idle s 0) (runPins_nil _)
  | succ n ih => exact fun s => runPins_cons_next (step_offer_idle s 0) (ih (s.emit .none))

end Sys2Proof.Machine
end

section
/-! SUPPORT. How far the next return to `Seeking` can be (R107, R113), and how near the next event can be (R108). -/

namespace Sys2Proof.Machine

/-! ### A bound on the bytes until `Seeking` -/

/-- At most how many bytes bring the parser to `Seeking` (R107): exactly so many from the destination byte on, where `LEN` and `CNT`
fix the rest of the frame; before it, the largest frame's. -/
def State.bytesToSeeking (s : State) : Nat :=
  match s.st with
  | .seeking => 0
  | .matchedFirstMarker => 137
  | .readingLength0 => 136
  | .readingLength1 => 135
  | .readingMessageId0 => 134
  | .readingMessageId1 => 133
  | .readingSource => 132
  | .readingDestination => if maxPayload < s.len.toNat then 1 else s.len.toNat + 3
  | .readingPayload => s.len.toNat - s.cnt.toNat + 2
  | .readingChecksum0 => 2
  | .readingChecksum1 => 1

/-- `ST` is in 7..10: the header is complete but for its destination byte. -/
def ParserState.pastSource : ParserState → Bool
  | .seeking | .matchedFirstMarker | .readingLength0 | .readingLength1 => false
  | .readingMessageId0 | .readingMessageId1 | .readingSource => false
  | .readingDestination | .readingPayload | .readingChecksum0 | .readingChecksum1 => true

theorem State.bytesToSeeking_of_readingDestination {s : State} (hs : s.st = .readingDestination) :
    s.bytesToSeeking = if maxPayload < s.len.toNat then 1 else s.len.toNat + 3 := by
  simp only [State.bytesToSeeking, hs]

theorem State.bytesToSeeking_of_readingPayload {s : State} (hs : s.st = .readingPayload) :
    s.bytesToSeeking = s.len.toNat - s.cnt.toNat + 2 := by
  simp only [State.bytesToSeeking, hs]

theorem State.bytesToSeeking_of_readingDestination_of_le {s : State} (hs : s.st = .readingDestination)
    (hmax : s.len.toNat ≤ maxPayload) : s.bytesToSeeking = s.len.toNat + 3 :=
  (State.bytesToSeeking_of_readingDestination hs).trans (if_neg (Nat.not_lt.mpr hmax))

theorem State.bytesToSeeking_of_readingDestination_le {s : State} (hs : s.st = .readingDestination) :
    s.bytesToSeeking ≤ 131 := by
  rw [State.bytesToSeeking_of_readingDestination hs, maxPayload]
  split <;> omega

theorem State.bytesToSeeking_eq_zero_iff (s : State) : s.bytesToSeeking = 0 ↔ s.st = .seeking := by
  cases hs : s.st
  case readingDestination =>
    rw [State.bytesToSeeking_of_readingDestination hs]
    split <;> simp
  all_goals simp [State.bytesToSeeking, hs]

theorem State.bytesToSeeking_le {s : State} (hcounts : s.countsOk) : s.bytesToSeeking ≤ 137 := by
  cases hs : s.st
  case readingDestination =>
    have := State.bytesToSeeking_of_readingDestination_le hs
    omega
  case readingPayload =>
    obtain ⟨-, hmax, -⟩ := (State.countsOk_of_readingPayload hs).mp hcounts
    rw [maxPayload] at hmax
    rw [State.bytesToSeeking_of_readingPayload hs]
    omega
  all_goals simp [State.bytesToSeeking, hs]

/-- From the destination byte on, each byte is one of those that `LEN` and `CNT` announce. -/
theorem ByteStep.bytesToSeeking_succ {b : Byte} {s t : State} (h : ByteStep b s t) (hcounts : s.countsOk)
    (hpast : ParserState.pastSource s.st = true) :
    t.bytesToSeeking + 1 = s.bytesToSeeking ∧ (t.st = .seeking ∨ ParserState.pastSource t.st = true) := by
  cases h with
  | seekMiss hs | seekHit hs | syncHit hs | syncMiss hs | lenLo hs | lenHi hs | idLo hs | idHi hs | src hs =>
    rw [hs] at hpast
    cases hpast
  | dstDrop hs hgt =>
    exact ⟨((State.bytesToSeeking_of_readingDestination hs).trans (if_pos hgt)).symm, .inl rfl⟩
  | dstZero hs h0 =>
    rw [State.bytesToSeeking_of_readingDestination_of_le hs (by omega), h0]
    exact ⟨rfl, .inr rfl⟩
  | dstPay hs hpos hmax =>
    simp only [State.countsOk, hs] at hcounts
    rw [State.bytesToSeeking_of_readingDestination_of_le hs hmax, State.bytesToSeeking_of_readingPayload rfl]
    exact ⟨by simp only [hcounts]; omega, .inr rfl⟩
  | payMore hs hc hlt =>
    rw [State.bytesToSeeking_of_readingPayload hs, State.bytesToSeeking_of_readingPayload rfl, cnt_succ_toNat hc]
    exact ⟨by simp only; omega, .inr rfl⟩
  | payLast hs hc heq =>
    rw [State.bytesToSeeking_of_readingPayload hs, ← heq, Nat.add_sub_cancel_left]
    exact ⟨rfl, .inr rfl⟩
  | ckLo hs => exact ⟨by simp [State.bytesToSeeking, hs], .inr rfl⟩
  | ckOk hs | ckBad hs => exact ⟨by simp [State.bytesToSeeking, hs], .inl rfl⟩

/-- R107: each byte outside `Seeking` brings `Seeking` nearer. -/
theorem ByteStep.bytesToSeeking_lt {b : Byte} {s t : State} (h : ByteStep b s t) (hcounts : s.countsOk)
    (hne : s.st ≠ .seeking) : t.bytesToSeeking < s.bytesToSeeking := by
  by_cases hpast : ParserState.pastSource s.st = true
  · exact Nat.lt_of_succ_le (h.bytesToSeeking_succ hcounts hpast).1.le
  cases h with
  | seekMiss hs | seekHit hs => exact absurd hs hne
  | syncHit hs | syncMiss hs | lenLo hs | lenHi hs | idLo hs | idHi hs => simp [State.bytesToSeeking, hs]
  | src hs =>
    have hsource : s.bytesToSeeking = 132 := by simp only [State.bytesToSeeking, hs]
    rw [hsource]
    exact Nat.lt_succ_of_le (State.bytesToSeeking_of_readingDestination_le rfl)
  | dstDrop hs | dstZero hs | dstPay hs | payMore hs | payLast hs | ckLo hs | ckOk hs | ckBad hs =>
    rw [hs] at hpast
    exact absurd rfl hpast

/-! ### Runs up to `Seeking` -/

/-- `Seeking` is reached within the bound. -/
theorem exists_feed_seeking : ∀ {bs : List Byte} {s : State}, s.countsOk → s.bytesToSeeking ≤ bs.length →
    ∃ k t es, k ≤ s.bytesToSeeking ∧ feed s (bs.take k) = .next (t, es) ∧ t.st = .seeking
  | [], s, _, hlen => ⟨0, s, [], Nat.zero_le _, rfl, s.bytesToSeeking_eq_zero_iff.mp (Nat.le_zero.mp hlen)⟩
  | b :: bs, s, hcounts, hlen => by
    by_cases hs : s.st = .seeking
    · exact ⟨0, s, [], Nat.zero_le _, rfl, hs⟩
    obtain ⟨t, ht⟩ := exists_byteStep hcounts b
    have hlt := ht.bytesToSeeking_lt hcounts hs
    rw [List.length_cons] at hlen
    obtain ⟨k, u, es, hk, hfeed, hu⟩ := exists_feed_seeking (bs := bs) (ht.countsOk hcounts) (by omega)
    exact ⟨k + 1, u, t.event :: es, by omega, feed_cons_next (step_of_byteStep ht) hfeed, hu⟩

/-- The bound from a state that has left `Seeking`: at least one byte is needed. -/
theorem exists_feed_seeking_of_ne {s : State} {bs : List Byte} {n : Nat} (hcounts : s.countsOk) (hne : s.st ≠ .seeking)
    (hn : s.bytesToSeeking ≤ n) (hlen : n ≤ bs.length) :
    ∃ k t es, 1 ≤ k ∧ k ≤ n ∧ feed s (bs.take k) = .next (t, es) ∧ t.st = .seeking := by
  obtain ⟨k, t, es, hk, hfeed, ht⟩ := exists_feed_seeking hcounts (hn.trans hlen)
  refine ⟨k, t, es, Nat.one_le_iff_ne_zero.mpr ?_, hk.trans hn, hfeed, ht⟩
  rintro rfl
  cases hfeed
  exact hne ht

/-- From the destination byte on the bound is exact: up to it every byte is consumed, and before it in silence. -/
theorem exists_feed_bytesToSeeking : ∀ {bs : List Byte} {s : State}, s.countsOk →
    s.st = .seeking ∨ ParserState.pastSource s.st = true → bs.length ≤ s.bytesToSeeking →
    ∃ t es, feed s bs = .next (t, es) ∧ t.bytesToSeeking + bs.length = s.bytesToSeeking ∧
      (bs.length < s.bytesToSeeking → es = silent bs.length)
  | [], s, _, _, _ => ⟨s, [], rfl, rfl, fun _ => rfl⟩
  | b :: bs, s, hcounts, hst, hlen => by
    rw [List.length_cons] at hlen
    have hne : s.st ≠ .seeking := fun hs => by have := s.bytesToSeeking_eq_zero_iff.mpr hs; omega
    obtain ⟨t, ht⟩ := exists_byteStep hcounts b
    obtain ⟨hsucc, hst'⟩ := ht.bytesToSeeking_succ hcounts (hst.resolve_left hne)
    obtain ⟨u, es, hfeed, hu, hes⟩ := exists_feed_bytesToSeeking (bs := bs) (ht.countsOk hcounts) hst' (by omega)
    refine ⟨u, _, feed_cons_next (step_of_byteStep ht) hfeed, by rw [List.length_cons]; omega, fun hlt => ?_⟩
    rw [List.length_cons] at hlt
    have hquiet : t.event = .none := ht.event_cases.resolve_right fun ⟨_, hseek, _⟩ => by
      have := t.bytesToSeeking_eq_zero_iff.mpr hseek
      omega
    rw [hquiet, hes (by omega)]
    rfl

/-- Settles O48: the measure is at most 137, 136 in `ReadingLength(0)`, and exactly `LEN - CNT + 2` in `ReadingPayload`. -/
theorem seekingWithinBoundedBytes : Obligations.SeekingWithinBoundedBytes := by
  intro s bs hinv hne
  refine ⟨exists_feed_seeking_of_ne hinv.counts hne (State.bytesToSeeking_le hinv.counts), fun hs => ?_, fun hs hlen => ?_⟩
  · exact exists_feed_seeking_of_ne hinv.counts hne (by simp only [State.bytesToSeeking, hs, le_refl])
  · rw [← State.bytesToSeeking_of_readingPayload hs] at hlen
    obtain ⟨t, es, hfeed, ht, -⟩ := exists_feed_bytesToSeeking hinv.counts (.inr (by rw [hs]; rfl)) hlen.le
    exact ⟨t, es, hfeed, t.bytesToSeeking_eq_zero_iff.mp (by omega)⟩

/-- Settles O49: within 137 bytes the parser is in `Seeking`, and the rest is noise there. -/
theorem noiseWithoutMarkerRecovers : Obligations.NoiseWithoutMarkerRecovers := by
  intro s bs hinv hlen hnoise
  obtain ⟨k, t, es, -, hfeed, ht⟩ := exists_feed_seeking hinv.counts ((State.bytesToSeeking_le hinv.counts).trans hlen)
  obtain ⟨u, hrest, hu⟩ := feed_noise (g := bs.drop k) ht (by
    rw [feed_cfg hfeed]
    exact fun hmem => hnoise (List.mem_of_mem_drop hmem))
  have hrun := feed_append _ hfeed hrest
  rw [List.take_append_drop] at hrun
  exact ⟨u, _, hrun, hu⟩

/-! ### A bound on the bytes until an event -/

/-- At least how many bytes bring the parser to an event (R108): those of a frame with no payload, or with its last payload byte. -/
def ParserState.bytesToEvent : ParserState → Nat
  | .seeking => 10
  | .matchedFirstMarker => 9
  | .readingLength0 => 8
  | .readingLength1 => 7
  | .readingMessageId0 => 6
  | .readingMessageId1 => 5
  | .readingSource => 4
  | .readingDestination => 3
  | .readingPayload => 3
  | .readingChecksum0 => 2
  | .readingChecksum1 => 1

/-- No byte brings an event nearer by more than one. -/
theorem ByteStep.bytesToEvent_le {b : Byte} {s t : State} (h : ByteStep b s t) :
    ParserState.bytesToEvent s.st ≤ ParserState.bytesToEvent t.st + 1 := by
  cases h with
  | seekMiss hs | seekHit hs | syncHit hs | syncMiss hs | lenLo hs | lenHi hs | idLo hs | idHi hs | src hs | dstDrop hs
  | dstZero hs | dstPay hs | payMore hs | payLast hs | ckLo hs | ckOk hs | ckBad hs =>
    simp [ParserState.bytesToEvent, hs]

theorem bytesToEvent_le_of_event {t : State} : ∀ {bs : List Byte} {s : State} {es : List Event} {q : Nat},
    feed s bs = .next (t, es) → q < es.length → es[q]? ≠ some .none → ParserState.bytesToEvent s.st ≤ q + 1
  | [], _, _, _, h, hq, _ => by cases h; cases hq
  | b :: bs, s, _, q, h, hq, hevent => by
    obtain ⟨u, es, hu, hfeed, rfl⟩ := feed_cons_cases h
    cases q with
    | zero =>
      obtain hnone | ⟨hs, -⟩ := hu.event_cases
      · exact absurd (congrArg some hnone) hevent
      · rw [hs]
        exact le_rfl
    | succ q =>
      have hnext := bytesToEvent_le_of_event hfeed (Nat.lt_of_succ_lt_succ hq) hevent
      exact hu.bytesToEvent_le.trans (Nat.succ_le_succ hnext)

/-- Settles O50, by induction on the bytes before the first event: it leaves the parser in `Seeking`, ten bytes from the next. -/
theorem eventsAreTenBytesApart : Obligations.EventsAreTenBytesApart := by
  intro s t bs es p q hfeed hpq hq hp hqe
  induction bs generalizing s es p q with
  | nil => cases hfeed; cases hq
  | cons b bs ih =>
    obtain ⟨u, es, hu, hrest, rfl⟩ := feed_cons_cases hfeed
    obtain ⟨q, rfl⟩ : ∃ r, q = r + 1 := Nat.exists_eq_succ_of_ne_zero (by omega)
    have hq' := Nat.lt_of_succ_lt_succ hq
    cases p with
    | zero =>
      obtain hnone | ⟨-, hseek, -⟩ := hu.event_cases
      · exact absurd (congrArg some hnone) hp
      · have hnear := bytesToEvent_le_of_event hrest hq' hqe
        rw [hseek] at hnear
        exact (Nat.zero_add 10).trans_le hnear
    | succ p =>
      have hdist := ih u es p q hrest (by omega) hq' hp hqe
      omega

end Sys2Proof.Machine
end

section
/-! SUPPORT. One byte of a valid frame changed (R109): after the length field, in a marker, and in the length field. -/

namespace Sys2Proof.Machine

/-! ### A byte replaced, and a string cut short -/

theorem getD_set_of_ne {bs : List Byte} {i k : Nat} (x : Byte) (h : i ≠ k) : (bs.set k x).getD i 0 = bs.getD i 0 := by
  simp [List.getD, List.getElem?_set_ne h.symm]

theorem getD_set_self {bs : List Byte} {k : Nat} (x : Byte) (h : k < bs.length) : (bs.set k x).getD k 0 = x := by
  simp [List.getD, h]

theorem getD_take_of_lt {bs : List Byte} {i n : Nat} (h : i < n) : (bs.take n).getD i 0 = bs.getD i 0 := by
  simp [List.getD, List.getElem?_take_of_lt h]

theorem wireWord_set_of_ne {bs : List Byte} {i k : Nat} (x : Byte) (h : i ≠ k) (h' : i + 1 ≠ k) :
    wireWord (bs.set k x) i = wireWord bs i := by
  rw [wireWord, getD_set_of_ne x h, getD_set_of_ne x h', wireWord]

theorem wireWord_take_of_lt {bs : List Byte} {i n : Nat} (h : i + 1 < n) : wireWord (bs.take n) i = wireWord bs i := by
  rw [wireWord, getD_take_of_lt h, getD_take_of_lt (Nat.lt_of_succ_lt h), wireWord]

theorem zext16_inj {b c : Byte} : zext16 b = zext16 c ↔ b = c := by
  rw [← BitVec.toNat_inj, zext16_toNat, zext16_toNat, BitVec.toNat_inj]

/-- R71 item h: replacing one byte changes the checksum, unless by itself. -/
theorem checksum_set_eq_iff {bs : List Byte} {k : Nat} (h : k < bs.length) (x : Byte) :
    checksum (bs.set k x) = checksum bs ↔ bs[k] = x := by
  conv_lhs => rhs; rw [← List.set_getElem_self h]
  simp only [List.set_eq_take_append_cons_drop, if_pos h, checksum_append, checksum_cons, BitVec.add_right_inj,
    BitVec.add_left_inj, zext16_inj]
  exact eq_comm

/-! ### A byte after the length field -/

/-- The markers and the length field keep the form of a frame, whatever the later bytes are. -/
theorem Framed.set {cfg : Config} {bs : List Byte} (h : Framed cfg bs) {k : Nat} (hk : 4 ≤ k) (x : Byte) :
    Framed cfg (bs.set k x) := by
  have hlen : wireWord (bs.set k x) 2 = wireWord bs 2 := wireWord_set_of_ne x (by omega) (by omega)
  refine ⟨?_, ?_, ?_, ?_⟩
  · rw [getD_set_of_ne x (by omega), h.marker0]
  · rw [getD_set_of_ne x (by omega), h.marker1]
  · rw [hlen]
    exact h.max
  · rw [hlen, List.length_set, h.length]

/-- One changed byte before offset `j` changes the sum but not the checksum field; one from there on, the field but not the sum. -/
theorem wireWord_set_ne_checksum {bs : List Byte} {j k : Nat} {x : Byte} (hck : wireWord bs j = checksum (bs.take j))
    (hlen : bs.length = j + 2) (hk : k < bs.length) (hx : bs[k] ≠ x) :
    wireWord (bs.set k x) j ≠ checksum ((bs.set k x).take j) := by
  rcases Nat.lt_or_ge k j with hlt | hge
  · rw [wireWord_set_of_ne x (by omega) (by omega), hck, List.take_set]
    intro heq
    have hk' : k < (bs.take j).length := by rw [List.length_take]; omega
    exact hx ((List.getElem_take).symm.trans ((checksum_set_eq_iff hk' x).mp heq.symm))
  · rw [List.take_set_of_le hge, ← hck]
    intro heq
    have hself := getD_set_self x hk
    have hold := List.getD_eq_getElem bs 0 hk
    have hlow := congrArg lowByte heq
    have hhigh := congrArg highByte heq
    simp only [lowByte_wireWord, highByte_wireWord] at hlow hhigh
    obtain rfl | rfl : k = j ∨ k = j + 1 := by omega
    · exact hx (hold.symm.trans (hlow.symm.trans hself))
    · exact hx (hold.symm.trans (hhigh.symm.trans hself))

/-- Settles O51: the changed string still has the form of a frame, and its checksum does not match. -/
theorem corruptedFrameIsReported : Obligations.CorruptedFrameIsReported := by
  intro s F k x _ hs hF hk hlt hx
  obtain ⟨hframed, hck⟩ := validFrame_iff_framed.mp hF
  have hne : F[k] ≠ x := fun h => hx (by rw [List.getElem?_eq_getElem hlt, h])
  have hbad := wireWord_set_ne_checksum hck (by have := hframed.length; omega) hlt hne
  have hlen : wireWord (F.set k x) 2 = wireWord F 2 := wireWord_set_of_ne x (by omega) (by omega)
  have hfeed := (hframed.set hk x).feed_checksum_ne hs (by rw [hlen]; exact hbad)
  rwa [List.length_set] at hfeed

/-! ### A marker, or a length above 128 -/

/-- The first eight bytes behind the two markers, with any length field. -/
theorem take_eight_eq_bytesToSource_append {cfg : Config} {bs : List Byte} (h8 : 8 ≤ bs.length)
    (h0 : bs.getD 0 0 = cfg.marker0) (h1 : bs.getD 1 0 = cfg.marker1) :
    bs.take 8 = bytesToSource cfg (wireWord bs 2) (wireWord bs 4) (bs.getD 6 0) ++ [bs.getD 7 0] := by
  rw [take_eight_eq_getD h8, h0, h1, bytesToSource]
  simp only [lowByte_wireWord, highByte_wireWord, List.cons_append, List.nil_append]

/-- R88, R116: a header that declares more than 128 payload bytes is dropped after its destination, in silence. -/
theorem feed_oversize {s : State} {bs : List Byte} (hs : s.st = .seeking) (h8 : 8 ≤ bs.length)
    (h0 : bs.getD 0 0 = s.cfg.marker0) (h1 : bs.getD 1 0 = s.cfg.marker1) (hover : maxPayload < (wireWord bs 2).toNat) :
    ∃ t, feed s (bs.take 8) = .next (t, silent 8) ∧ t.st = .seeking := by
  rw [take_eight_eq_bytesToSource_append h8 h0 h1]
  exact ⟨_, feed_append _ (feed_bytesToSource hs _ _ _) (feed_cons_silent (.dstDrop rfl hover) rfl (feed_nil_silent _)), rfl⟩

theorem take_one_set_zero {bs : List Byte} (h : 1 ≤ bs.length) (x : Byte) : (bs.set 0 x).take 1 = [x] := by
  match bs, h with
  | _ :: _, _ => rfl

theorem take_two_set_one {bs : List Byte} (h : 2 ≤ bs.length) (x : Byte) : (bs.set 1 x).take 2 = [bs.getD 0 0, x] := by
  match bs, h with
  | _ :: _ :: _, _ => rfl

/-- The length field with a half replaced (R52). -/
theorem wireWord_two_set_low {bs : List Byte} (h : 2 < bs.length) (x : Byte) :
    wireWord (bs.set 2 x) 2 = joinBytes (bs.getD 3 0) x := by
  rw [wireWord, getD_set_self x h, getD_set_of_ne x (by omega)]

theorem wireWord_two_set_high {bs : List Byte} (h : 3 < bs.length) (x : Byte) :
    wireWord (bs.set 3 x) 2 = joinBytes x (bs.getD 2 0) := by
  rw [wireWord, getD_set_self x h, getD_set_of_ne x (by omega)]

/-- Settles O52: SEEK.MISS and SYNC.MISS on a changed marker; a high length byte other than 0, or a low one above 128, declares an
oversize payload. -/
theorem corruptedStartOrLengthIsSilent : Obligations.CorruptedStartOrLengthIsSilent := by
  intro s F x _ hs hF
  obtain ⟨⟨h0, h1, -, hlen⟩, -⟩ := validFrame_iff_framed.mp hF
  have h10 : 10 ≤ F.length := by omega
  refine ⟨fun hx => ?_, fun hx => ?_, fun hx => ?_, fun hx => ?_⟩
  · rw [take_one_set_zero (by omega)]
    exact ⟨_, feed_cons_silent (.seekMiss hs hx) rfl (feed_nil_silent _), rfl⟩
  · rw [take_two_set_one (by omega), h0]
    exact ⟨_, feed_cons_silent (.seekHit hs rfl) rfl <| feed_cons_silent (.syncMiss rfl hx) rfl (feed_nil_silent _), rfl⟩
  · refine feed_oversize hs (by rw [List.length_set]; omega) ((getD_set_of_ne x (by decide)).trans h0)
      ((getD_set_of_ne x (by decide)).trans h1) ?_
    have hpos : x.toNat ≠ 0 := fun h => hx (BitVec.eq_of_toNat_eq h)
    rw [wireWord_two_set_high (by omega), joinBytes_toNat, maxPayload]
    omega
  · refine feed_oversize hs (by rw [List.length_set]; omega) ((getD_set_of_ne x (by decide)).trans h0)
      ((getD_set_of_ne x (by decide)).trans h1) ?_
    rw [wireWord_two_set_low (by omega), joinBytes_toNat, maxPayload]
    omega

/-! ### A length of at most 128 -/

/-- A string that stops before the end its length field declares leaves the parser waiting in the frame, in silence. -/
theorem feed_incomplete {s : State} {bs : List Byte} (hs : s.st = .seeking) (h8 : 8 ≤ bs.length)
    (h0 : bs.getD 0 0 = s.cfg.marker0) (h1 : bs.getD 1 0 = s.cfg.marker1) (hmax : (wireWord bs 2).toNat ≤ maxPayload)
    (hshort : bs.length < 10 + (wireWord bs 2).toNat) :
    ∃ t, feed s bs = .next (t, silent bs.length) ∧ t.st ≠ .seeking := by
  have hsplit : bytesToSource s.cfg (wireWord bs 2) (wireWord bs 4) (bs.getD 6 0) ++ bs.getD 7 0 :: bs.drop 8 = bs := by
    rw [List.append_cons, ← take_eight_eq_bytesToSource_append h8 h0 h1, List.take_append_drop]
  have hrest : (bs.getD 7 0 :: bs.drop 8).length + 7 = bs.length := by
    rw [List.length_cons, List.length_drop]
    omega
  have hbound : (s.atDestination (wireWord bs 2) (wireWord bs 4) (bs.getD 6 0)).bytesToSeeking = (wireWord bs 2).toNat + 3 :=
    State.bytesToSeeking_of_readingDestination_of_le rfl hmax
  obtain ⟨t, es, hfeed, ht, hes⟩ := exists_feed_bytesToSeeking (bs := bs.getD 7 0 :: bs.drop 8)
    (s := s.atDestination (wireWord bs 2) (wireWord bs 4) (bs.getD 6 0)) rfl (.inr rfl) (by omega)
  rw [hes (by omega)] at hfeed
  have hrun := feed_append _ (feed_bytesToSource hs _ _ _) hfeed
  rw [hsplit, silent_append, Nat.add_comm, hrest] at hrun
  refine ⟨t, hrun, fun hseek => ?_⟩
  have := t.bytesToSeeking_eq_zero_iff.mpr hseek
  omega

/-- A frame's high length byte is 0 (R49), so that the low one alone is the length. -/
theorem Framed.wireWord_two_set_low_toNat {cfg : Config} {bs : List Byte} (h : Framed cfg bs) (x : Byte) :
    (wireWord (bs.set 2 x) 2).toNat = x.toNat := by
  have hlen := h.length
  have hmax : 256 * (bs.getD 3 0).toNat + (bs.getD 2 0).toNat ≤ 128 := by
    rw [← joinBytes_toNat]
    exact h.max
  rw [wireWord_two_set_low (by omega), joinBytes_toNat]
  omega

/-- A frame cut where a smaller length says has the form of a frame. -/
theorem Framed.take_set_low {cfg : Config} {bs : List Byte} (h : Framed cfg bs) {x : Byte}
    (hx : x.toNat < (wireWord bs 2).toNat) : Framed cfg ((bs.set 2 x).take (10 + x.toNat)) := by
  have hword : wireWord ((bs.set 2 x).take (10 + x.toNat)) 2 = wireWord (bs.set 2 x) 2 := wireWord_take_of_lt (by omega)
  refine ⟨?_, ?_, ?_, ?_⟩
  · rw [getD_take_of_lt (by omega), getD_set_of_ne x (by decide), h.marker0]
  · rw [getD_take_of_lt (by omega), getD_set_of_ne x (by decide), h.marker1]
  · rw [hword, h.wireWord_two_set_low_toNat]
    exact hx.le.trans h.max
  · have hlen := h.length
    rw [hword, h.wireWord_two_set_low_toNat, List.length_take, List.length_set]
    omega

/-- Settles O58: with a larger length the frame's bytes end before the declared payload and checksum do; with a smaller one the
string cut there has the form of a frame, and is delivered or reported by the two bytes it takes as its checksum. -/
theorem corruptedLengthWithinTheBuffer : Obligations.CorruptedLengthWithinTheBuffer := by
  intro s F x hinv hs hF hmax
  obtain ⟨hframed, -⟩ := validFrame_iff_framed.mp hF
  have hlen := hframed.length
  have hsetWord := hframed.wireWord_two_set_low_toNat x
  refine ⟨fun hx => ?longer, fun hx => ?shorter⟩
  case longer =>
    have hfeed := feed_incomplete (bs := F.set 2 x) hs (by rw [List.length_set]; omega)
      ((getD_set_of_ne x (by decide)).trans hframed.marker0) ((getD_set_of_ne x (by decide)).trans hframed.marker1)
      (hsetWord.trans_le hmax) (by rw [List.length_set]; omega)
    rwa [List.length_set] at hfeed
  case shorter =>
    have hcut := hframed.take_set_low hx
    have hcutLen : ((F.set 2 x).take (10 + x.toNat)).length - 1 = 9 + x.toNat := by
      rw [List.length_take, List.length_set]
      omega
    have hcutWord : (wireWord ((F.set 2 x).take (10 + x.toNat)) 2).toNat = x.toNat :=
      (congrArg BitVec.toNat (wireWord_take_of_lt (by omega))).trans hsetWord
    have hsrc : ((F.set 2 x).take (10 + x.toNat)).getD 6 0 = F.getD 6 0 :=
      (getD_take_of_lt (by omega)).trans (getD_set_of_ne x (by decide))
    have heq := hcut.feed_checksum_eq hs hinv.payWf
    have hne := hcut.feed_checksum_ne hs
    rw [hcutWord, wireWord_take_of_lt (by omega), List.take_take, Nat.min_eq_left (by omega), hcutLen] at heq hne
    rw [hsrc] at hne
    exact ⟨heq, hne⟩

end Sys2Proof.Machine
end

section
/-! SUPPORT. The operation-select key (R61, R62): the operation of a byte is the one row whose state and condition hold, and a
row's key is made of its two wires, the code of its state and its byte. -/

namespace Sys2Proof.Machine

/-! ### The row of a byte -/

theorem selected_of_selectByte {r : SelRegs} {st : ParserState} {b : Byte} {i : Instr} (h : selectByte r st b = .ok i) :
    i.fromState = some st ∧ i.byte = some b ∧ selected r i = true := by
  cases st <;> simp only [selectByte] at h
  case seeking | matchedFirstMarker | readingChecksum1 =>
    split at h <;> cases h
    all_goals simp [Instr.fromState, Instr.byte, selected, wellFormed, *]
  case readingDestination =>
    split at h
    · cases h; simp [Instr.fromState, Instr.byte, selected, wellFormed, *]
    next hmax =>
      split at h <;> cases h
      · simp [Instr.fromState, Instr.byte, selected, wellFormed, *]
      next h0 =>
        have hpos : 1 ≤ r.len.toNat := Nat.one_le_iff_ne_zero.mpr (mt (word_eq_zero_iff r.len).mpr h0)
        simp [Instr.fromState, Instr.byte, selected, wellFormed, hpos, Nat.not_lt.mp hmax]
  case readingPayload =>
    split at h
    · cases h; simp [Instr.fromState, Instr.byte, selected, wellFormed, *]
    · split at h <;> cases h
      simp [Instr.fromState, Instr.byte, selected, wellFormed, *]
  all_goals
    cases h
    exact ⟨rfl, rfl, rfl⟩

theorem selectByte_of_selected {r : SelRegs} {st : ParserState} {b : Byte} {i : Instr} (hst : i.fromState = some st)
    (hb : i.byte = some b) (h : selected r i = true) : selectByte r st b = .ok i := by
  cases i <;> cases hst <;> cases hb
  case lenLo | lenHi | idLo | idHi | src | ckLo => rfl
  case seekHit | syncHit | ckOk | dstDrop | payMore => exact if_pos (by simpa [selected, wellFormed] using h)
  case seekMiss | syncMiss | ckBad => exact if_neg (by simpa [selected, wellFormed] using h)
  case dstZero =>
    have h0 : r.len = 0 := by simpa [selected, wellFormed] using h
    simp [selectByte, h0]
  case dstPay =>
    obtain ⟨hpos, hmax⟩ : 1 ≤ r.len.toNat ∧ r.len.toNat ≤ maxPayload := by simpa [selected, wellFormed] using h
    have hne : r.len ≠ 0 := fun h0 => absurd ((word_eq_zero_iff r.len).mp h0) (by omega)
    exact (if_neg (Nat.not_lt.mpr hmax)).trans (if_neg hne)
  case payLast =>
    have heq : cntSucc r.cnt = r.len := by simpa [selected, wellFormed] using h
    simp [selectByte, heq]

/-- R62: the operation of a byte in the state `st` is the row that names `st`, takes the byte, and whose condition holds. -/
theorem selectByte_eq_ok_iff {r : SelRegs} {st : ParserState} {b : Byte} {i : Instr} :
    selectByte r st b = .ok i ↔ i.fromState = some st ∧ i.byte = some b ∧ selected r i = true :=
  ⟨selected_of_selectByte, fun ⟨hst, hb, h⟩ => selectByte_of_selected hst hb h⟩

/-! ### RESET, IDLE, or a byte in a state -/

/-- An operation is RESET, IDLE, or one that a byte performs in the state its pattern names. -/
theorem reset_or_idle_or_byte (i : Instr) :
    i = .reset ∨ i = .idle ∨ ∃ st b, i.fromState = some st ∧ i.byte = some b := by
  cases i with
  | reset => exact .inl rfl
  | idle => exact .inr (.inl rfl)
  | _ => exact .inr (.inr ⟨_, _, rfl, rfl⟩)

section
variable {i : Instr} {st : ParserState}

theorem encode_of_byte {b : Byte} (hst : i.fromState = some st) (hb : i.byte = some b) :
    encode i = mkKey false true st.code b := by
  cases i <;> cases hst <;> cases hb <;> rfl

theorem keyMask_of_fromState (hst : i.fromState = some st) : i.keyMask = 0x3F00 := by
  cases i <;> cases hst <;> rfl

theorem keyMatch_of_fromState (hst : i.fromState = some st) : i.keyMatch = mkKey false true st.code 0 := by
  cases i <;> cases hst <;> rfl

end

theorem mkKey_inj {rst rst' v v' : Bool} {c c' : BitVec 4} {b b' : Byte} :
    mkKey rst v c b = mkKey rst' v' c' b' ↔ rst = rst' ∧ v = v' ∧ c = c' ∧ b = b' := by
  refine ⟨fun h => ⟨?_, ?_, ?_, ?_⟩, fun ⟨hr, hv, hc, hb⟩ => by rw [hr, hv, hc, hb]⟩
  · simpa using congrArg Key.rst h
  · simpa using congrArg Key.inValid h
  · simpa using congrArg Key.stCode h
  · simpa using congrArg Key.data h

/-- The fixed bits of a byte row say `rst = 0`, `in_valid = 1`, and the code of the row's state (R62). -/
theorem key_and_mask_iff {k : Key} {i : Instr} {st : ParserState} (hst : i.fromState = some st) :
    k &&& i.keyMask = i.keyMatch ↔ k.rst = false ∧ k.inValid = true ∧ k.stCode = st.code := by
  rw [keyMask_of_fromState hst, keyMatch_of_fromState hst, key_and_state, mkKey_inj]
  simp

theorem decode_of_rst {r : SelRegs} {k : Key} (hr : k.rst = true) : decode r k = .ok .reset := by
  simp [decode, hr]

theorem decode_of_no_byte {r : SelRegs} {k : Key} (hr : k.rst = false) (hv : k.inValid = false) :
    decode r k = .ok .idle := by
  simp [decode, hr, hv]

theorem decode_of_byte {r : SelRegs} {k : Key} {st : ParserState} (hr : k.rst = false) (hv : k.inValid = true)
    (hst : k.stCode = st.code) : decode r k = selectByte r st k.data := by
  simp [decode, hr, hv, hst]

/-- Settles O11: RESET and IDLE by their wires, and the other rows by the row of a byte. -/
theorem decodeOfEncodeIsTheOperation : Obligations.DecodeOfEncodeIsTheOperation := by
  intro r i hsel
  obtain rfl | rfl | ⟨st, b, hst, hb⟩ := reset_or_idle_or_byte i
  · rfl
  · rfl
  · rw [encode_of_byte hst hb, decode_mkKey]
    exact selectByte_of_selected hst hb hsel

/-- Settles O12: the decoder answers RESET, IDLE, or the row of the byte, whose fixed bits are the key's. -/
theorem decodedOperationMatchesItsRow : Obligations.DecodedOperationMatchesItsRow := by
  intro r k i hdec
  obtain ⟨hr, rfl⟩ | ⟨hr, hv, rfl⟩ | ⟨hr, hv, st, hcode, hrow⟩ := decode_cases hdec
  · exact ⟨(key_and_reset k).mpr hr, rfl, .inl rfl⟩
  · exact ⟨(key_and_idle k).mpr ⟨hr, hv⟩, rfl, .inl rfl⟩
  · obtain ⟨hst, hb, hsel⟩ := selected_of_selectByte hrow
    exact ⟨(key_and_mask_iff hst).mpr ⟨hr, hv, (ParserState.code_of_ofCode hcode).symm⟩, hsel, .inr hb⟩

/-- Settles O13: a row's fixed bits name the wires and the state, where its condition selects it. -/
theorem matchingRowIsDecoded : Obligations.MatchingRowIsDecoded := by
  intro r k i hbits hsel hbyte
  obtain rfl | rfl | ⟨st, b, hst, hb⟩ := reset_or_idle_or_byte i
  · exact decode_of_rst ((key_and_reset k).mp hbits)
  · obtain ⟨hr, hv⟩ := (key_and_idle k).mp hbits
    exact decode_of_no_byte hr hv
  · obtain ⟨hr, hv, hcode⟩ := (key_and_mask_iff hst).mp hbits
    have hdata : i.byte = some k.data := hbyte.resolve_left (by simp [hb])
    exact (decode_of_byte hr hv hcode).trans (selectByte_of_selected hst hdata hsel)

/-- With `LEN` and `CNT` as R28 says, the decoder has an operation for every byte. -/
theorem exists_selectByte {s : State} (hcounts : s.countsOk) (b : Byte) : ∃ i, selectByte s.selRegs s.st b = .ok i := by
  obtain ⟨t, ht⟩ := exists_byteStep hcounts b
  have hstep := (step_offer s b).symm.trans (step_of_byteStep ht)
  cases hi : selectByte s.selRegs s.st b with
  | ok i => exact ⟨i, rfl⟩
  | error e => rw [hi] at hstep; cases hstep

/-- Settles O14: the operation the decoder has for the byte, which is the only one whose row applies. -/
theorem selectionIsTotalAndExclusive : Obligations.SelectionIsTotalAndExclusive := by
  intro s b hinv
  obtain ⟨i, hi⟩ := exists_selectByte hinv.counts b
  refine ⟨i, selected_of_selectByte hi, fun j hj => ?_⟩
  exact Except.ok.inj ((selectByte_eq_ok_iff.mpr hj).symm.trans hi)

/-! ### The step and its key -/

/-- Settles O8: the decoder answers only rows whose condition holds, the marker conditions among them. -/
theorem stepRunsTheDecodedOperation : Obligations.StepRunsTheDecodedOperation := by
  intro s
  refine ⟨fun i hi _ => step_of_decode hi, fun i hi => ?_, fun e he => ?_, rfl⟩
  · obtain ⟨-, hsel, -⟩ := decodedOperationMatchesItsRow _ _ _ hi
    exact (Bool.and_eq_true_iff.mp hsel).1
  · rw [step, he]

/-- Settles O10: each word is read field by field. -/
theorem writtenKeysDecode : Obligations.WrittenKeysDecode :=
  ⟨rfl, rfl, rfl, rfl, rfl, rfl, rfl, rfl, rfl, rfl, rfl, rfl⟩

/-- Settles O4: the decoder looks at `rst` first. -/
theorem resetWinsOverAnOfferedByte : Obligations.ResetWinsOverAnOfferedByte := step_offer_reset

/-! ### A table word as the next key (log entry 8) -/

theorem decodeTableWord_eq_some {nbits w : Nat} {i : Instr} (h : decodeTableWord nbits w = some i) :
    ∃ k, keyOfWord nbits w = some k ∧ decode SelRegs.table k = .ok i := by
  unfold decodeTableWord at h
  split at h
  · cases h
  next k hk =>
    split at h <;> cases h
    exact ⟨k, hk, ‹_›⟩

theorem State.withKey_pins (k : Key) (s : State) : (s.withKey k).pins = Key.pins k := by
  unfold State.withKey
  split
  · rfl
  · split
    · split
      next st _ => cases st <;> rfl
      · rfl
    · rfl

/-- The registers that the row of a byte reads in its state are set as in the context for bare words. -/
theorem selectByte_withTableRegs (s : State) (st : ParserState) (b : Byte) :
    selectByte (s.withTableRegs st).selRegs st b = selectByte SelRegs.table st b := by
  cases st <;> rfl

theorem State.withKey_of_byte {k : Key} {st : ParserState} (hr : k.rst = false) (hv : k.inValid = true)
    (hst : ParserState.ofCode k.stCode = some st) (s : State) :
    s.withKey k = { State.withTableRegs st { s with input := Key.pins k :: s.input } with st := st } := by
  simp [State.withKey, hr, hv, hst]

theorem State.key_withKey_rst (k : Key) (s : State) : (s.withKey k).key.rst = k.rst := by
  rw [State.key, mkKey_rst, State.withKey_pins, Key.pins]

theorem State.key_withKey_inValid (k : Key) (s : State) : (s.withKey k).key.inValid = k.inValid := by
  rw [State.key, mkKey_inValid, State.withKey_pins, Key.pins]

/-- Where the key is put, the decoder reads from it what it reads in the context for bare words. -/
theorem decode_withKey {k : Key} {i : Instr} (s : State) (h : decode SelRegs.table k = .ok i) :
    decode (s.withKey k).selRegs (s.withKey k).key = .ok i := by
  obtain ⟨hr, rfl⟩ | ⟨hr, hv, rfl⟩ | ⟨hr, hv, st, hst, hrow⟩ := decode_cases h
  · exact decode_of_rst ((s.key_withKey_rst k).trans hr)
  · exact decode_of_no_byte ((s.key_withKey_rst k).trans hr) ((s.key_withKey_inValid k).trans hv)
  · rw [State.key, decode_mkKey, State.withKey_pins, State.withKey_of_byte hr hv hst]
    simp only [Key.pins, hr, hv]
    exact (selectByte_withTableRegs _ st k.data).trans hrow

/-- Settles O9: the word's key stands where the step finds it, in the context in which the word was read. -/
theorem fetchedTableWordIsRun : Obligations.FetchedTableWordIsRun := by
  intro s nbits w i hw
  obtain ⟨k, hk, hdec⟩ := decodeTableWord_eq_some hw
  have hfetch : s.withFetchWord nbits w = s.withKey k := by rw [State.withFetchWord, hk]
  rw [hfetch]
  exact step_of_decode (decode_withKey s hdec)

end Sys2Proof.Machine
end

section
/-! SUPPORT. The function `checksum` (R70, R71) and the values of `encode` (R99 to R102). -/

namespace Sys2Proof.Machine

/-! ### The checksum -/

/-- Folding `ACC.ADD` adds the checksum of the bytes to what `ACC` held (R71 item e). -/
theorem acc_foldl_accAdd : ∀ (xs : List Byte) (s : State),
    (xs.foldl (fun (u : State) b => u.accAdd b) s).acc = s.acc + checksum xs
  | [], s => by rw [checksum_nil, BitVec.add_zero]; rfl
  | b :: xs, s => by
    rw [List.foldl_cons, acc_foldl_accAdd xs, checksum_cons, State.accAdd_eq, State.setAcc_acc, BitVec.add_assoc]

/-- Settles O27: the checksum of a concatenation is the sum of words, and the other clauses are cases of it. -/
theorem checksumFoldsAndConcatenates : Obligations.ChecksumFoldsAndConcatenates := by
  refine ⟨rfl, fun xs ys => ?_, fun xs b => ?_, fun xs ys => ?_, fun xs s => ?_⟩
  · rw [checksum_append, BitVec.toNat_add]
  · rw [checksum_append, checksum_cons, checksum_nil, BitVec.add_zero, accAdd_toNat]
  · have hzero : zext16 0 = 0#16 := rfl
    rw [checksum_append, checksum_append, checksum_cons, hzero, BitVec.zero_add]
  · exact (acc_foldl_accAdd xs { s with acc := 0 }).trans (BitVec.zero_add _)

theorem byteSum_eq_sum : ∀ xs : List Byte, byteSum xs = (xs.map BitVec.toNat).sum
  | [] => rfl
  | b :: xs => by rw [byteSum_cons, byteSum_eq_sum xs, List.map_cons, List.sum_cons]

theorem checksum_perm {xs ys : List Byte} (h : xs.Perm ys) : checksum xs = checksum ys := by
  rw [checksum, checksum, byteSum_eq_sum, byteSum_eq_sum, (h.map _).sum_eq]

/-- Settles O28: the sum does not see the order, and words that differ in one summand differ. -/
theorem checksumIgnoresOrderAndSeesOneChange : Obligations.ChecksumIgnoresOrderAndSeesOneChange := by
  refine ⟨fun _ _ => checksum_perm, fun xs ys x y hne heq => hne ?_⟩
  simpa only [checksum_append, checksum_cons, BitVec.add_right_inj, BitVec.add_left_inj, zext16_inj] using heq

/-! ### The values of `encode` -/

theorem lowByte_ofNat (n : Nat) : lowByte (BitVec.ofNat 16 n) = BitVec.ofNat 8 n := by
  apply BitVec.eq_of_toNat_eq
  rw [lowByte_toNat, BitVec.toNat_ofNat, BitVec.toNat_ofNat]
  omega

/-- R49: the high byte of a length up to 128 is zero. -/
theorem highByte_ofNat_length {p : List Byte} (hp : p.length ≤ maxPayload) : highByte (BitVec.ofNat 16 p.length) = 0 := by
  apply BitVec.eq_of_toNat_eq
  rw [highByte_toNat, toNat_ofNat_length hp]
  exact Nat.div_eq_of_lt (by rw [maxPayload] at hp; omega)

/-- Settles O29: the bound is the definition's; the header has 8 bytes and the checksum 2. -/
theorem encodeDomainAndLength : Obligations.EncodeDomainAndLength := by
  intro cfg m src dst p
  refine ⟨fun hlong => if_neg (Nat.not_le.mpr hlong), fun hp => ⟨_, if_pos hp, ?_, ?_, ?_⟩⟩
  · rw [List.length_append, length_frameBody, List.length_cons, List.length_singleton]
    omega
  · exact congrArg some (lowByte_ofNat p.length)
  · exact congrArg some (highByte_ofNat_length hp)

/-- R102: the reading of an encoding, by the offsets of R48. -/
theorem readFrame_encodeFrame {cfg : Config} {m : Word16} {src dst : Byte} {p bs : List Byte}
    (h : encodeFrame cfg m src dst p = some bs) : readFrame bs = sentFrame cfg m src dst p := by
  obtain ⟨hp, rfl⟩ := encodeFrame_eq_some_iff.mp h
  have hck := wireWord_append_of_length (length_frameBody cfg m src dst p) (checksum (frameBody cfg m src dst p))
  have hmid : wireWord (frameBody cfg m src dst p ++ [lowByte (checksum (frameBody cfg m src dst p)),
      highByte (checksum (frameBody cfg m src dst p))]) 4 = m := joinBytes_high_low m
  have hpayload : ((frameBody cfg m src dst p ++ [lowByte (checksum (frameBody cfg m src dst p)),
      highByte (checksum (frameBody cfg m src dst p))]).drop 8).take p.length = p := List.take_left' rfl
  rw [readFrame, sentFrame, wireWord_two_frameBody_append, toNat_ofNat_length hp, hck, hmid, hpayload]
  rfl

/-- Settles O31: two encodings that are one string are read back to the same fields. -/
theorem encodedFieldsAreReadBack : Obligations.EncodedFieldsAreReadBack := by
  intro cfg m src dst p bs henc
  have hread := readFrame_encodeFrame henc
  refine ⟨hread, fun m' src' dst' p' henc' => ?_⟩
  have hsame : sentFrame cfg m' src' dst' p' = sentFrame cfg m src dst p := (readFrame_encodeFrame henc').symm.trans hread
  exact ⟨congrArg Frame.messageId hsame, congrArg Frame.source hsame, congrArg Frame.destination hsame,
    congrArg Frame.payload hsame⟩

end Sys2Proof.Machine
end

section
/-! SUPPORT. The operations that end or abandon a frame, RESET, and what the read port shows after them (R29, R41, R77, R81, R82,
R88 to R90, R94, R95). -/

namespace Sys2Proof.Machine

/-! ### RESET -/

/-- Settles O1: the fields of the state after reset. -/
theorem resetStateIsSeekingWithNoEvent : Obligations.ResetStateIsSeekingWithNoEvent :=
  ⟨rfl, rfl, rfl, rfl, rfl, fun _ => ⟨rfl, rfl, rfl⟩⟩

/-- In `Seeking` the invariants ask only the canonical form of the buffer (R28). -/
theorem State.inv_of_seeking {s : State} (hs : s.st = .seeking) (hwf : s.pay.wf = true) : s.Inv where
  payWf := hwf
  counts := by simp only [State.countsOk, hs]
  sum h := by rw [hs] at h; cases h

/-- Settles O2: the state after reset is in `Seeking`, with an empty cell list. -/
theorem resetStateSatisfiesTheInvariants : Obligations.ResetStateSatisfiesTheInvariants :=
  fun _ => State.inv_of_seeking rfl rfl

theorem Memory.read_ofFn_from (f : Nat → Byte) : ∀ (n lo : Nat) {i : Nat}, lo + n ≤ maxPayload → lo ≤ i → i < lo + n →
    Memory.read ((List.range' lo n).filterMap fun i => if f i = Memory.unlisted then none else some (i, f i)) i = f i
  | 0, _, _, _, hlo, hi => absurd hi (by omega)
  | n + 1, lo, i, hmax, hlo, hi => by
    have hrest := Memory.ofFn_wfFrom f n (lo + 1) (by omega)
    rw [List.range'_succ]
    rcases Nat.eq_or_lt_of_le hlo with rfl | hgt
    · by_cases hf : f lo = Memory.unlisted
      · rw [List.filterMap_cons_none (by simp [hf]), Memory.read_below hrest (Nat.lt_succ_self lo), hf]
      · rw [List.filterMap_cons_some (b := (lo, f lo)) (by simp [hf]), Memory.read_cons, if_pos rfl]
    · have ih := Memory.read_ofFn_from f n (lo + 1) (i := i) (by omega) hgt (by omega)
      by_cases hf : f lo = Memory.unlisted
      · rw [List.filterMap_cons_none (by simp [hf]), ih]
      · rw [List.filterMap_cons_some (b := (lo, f lo)) (by simp [hf]), Memory.read_cons, if_neg hgt.ne, ih]

/-- The cells of the buffer made of a function hold its values. -/
theorem Memory.read_ofFn (f : Nat → Byte) {i : Nat} (hi : i < maxPayload) : (Memory.ofFn f).read i = f i := by
  rw [Memory.ofFn, List.range_eq_range']
  exact Memory.read_ofFn_from f maxPayload 0 (by omega) (Nat.zero_le i) (by omega)

/-- Settles O3: RESET draws every register and every cell; the rest of the state is as its definition says. -/
theorem resetOperationLeavesOnlySeeking : Obligations.ResetOperationLeavesOnlySeeking := by
  intro s
  exact ⟨_, rfl, rfl, rfl, rfl, rfl, rfl, rfl, rfl, rfl, rfl, fun _ hi => Memory.read_ofFn _ hi, Memory.ofFn_wf _, rfl, rfl, rfl,
    rfl⟩

/-! ### SYNC -/

/-- Settles O16: SYNC.HIT loads the sum of the markers, SYNC.MISS gives up, and the comparison with `MARKER1` selects one. -/
theorem syncOperations : Obligations.SyncOperations := by
  intro s b
  refine ⟨⟨_, rfl, ?seed, rfl, fun _ => rfl⟩, ⟨_, rfl, rfl, fun _ => rfl⟩, ?hit, ?miss⟩
  case seed => exact (BitVec.toNat_add _ _).trans (by rw [zext16_toNat, zext16_toNat])
  case hit => exact fun hs hb => step_of_selectByte hs (if_pos hb)
  case miss => exact fun hs hb => step_of_selectByte hs (if_neg hb)

/-- Settles O17: with different markers SEEK.HIT, SYNC.MISS and SEEK.MISS; with equal ones SEEK.HIT, SYNC.HIT and LEN.LO. -/
theorem noPartialMatchCarryOver : Obligations.NoPartialMatchCarryOver := by
  intro s hs
  refine ⟨fun hne => ?different, fun heq => ?equal⟩
  case different =>
    have hrun := feed_cons_silent (.seekHit hs rfl) rfl <| feed_cons_silent (.syncMiss rfl hne) rfl <|
      feed_cons_silent (.seekMiss rfl hne.symm) rfl <| feed_nil_silent _
    rw [← hs] at hrun
    exact hrun
  case equal =>
    have hrun := feed_cons_silent (.seekHit hs rfl) rfl <| feed_cons_silent (.syncHit rfl heq) rfl <|
      feed_cons_silent (b := s.cfg.marker0) (.lenLo rfl) rfl <| feed_nil_silent _
    exact ⟨_, hrun, rfl, withLowByte_toNat_mod s.len s.cfg.marker0⟩

/-! ### The destination byte -/

/-- `CNT` is still 0 when the destination byte comes (R81). -/
theorem State.cnt_of_readingDestination {s : State} (hs : s.st = .readingDestination) (hcounts : s.countsOk) :
    s.cnt.toNat = 0 := by
  simpa only [State.countsOk, hs] using hcounts

/-- Settles O21: the three DST operations share their writes; `LEN` selects one of them. -/
theorem destinationOperations : Obligations.DestinationOperations := by
  intro s b
  have hacc := accAdd_toNat s.acc b
  refine ⟨⟨_, rfl, hacc, rfl, fun _ => rfl⟩, ⟨_, rfl, hacc, rfl, fun _ => rfl⟩, ⟨_, rfl, hacc, rfl, fun _ => rfl⟩,
    ?drop, ?zero, ?pay, ?count⟩
  case drop => exact fun hs hgt => step_of_byteStep (.dstDrop hs hgt)
  case zero => exact fun hs h0 => step_of_byteStep (.dstZero hs h0)
  case pay => exact fun hs hpos hmax => step_of_byteStep (.dstPay hs hpos hmax)
  case count => exact fun hinv hs => State.cnt_of_readingDestination hs hinv.counts

/-! ### The end of the payload -/

/-- Settles O23: the index of the store is `CNT`, and the copy reads up to `LEN`. -/
theorem missingPayloadCellFaults : Obligations.MissingPayloadCellFaults := by
  intro s b
  refine ⟨fun hge => ⟨?_, ?_⟩, fun hgt => ?_⟩
  · rw [exec, execPayMore, State.storePayload_of_ge hge]
  · rw [exec, execPayLast, State.storePayload_of_ge hge]
  · rw [exec, execCkOk, State.copyPayload_of_gt hgt]
    rfl

/-! ### The comparison -/

theorem rx_toNat (s : State) (b : Byte) : (s.rx b).toNat = 256 * b.toNat + s.rxck.toNat % 256 := by
  rw [State.rx, joinBytes_toNat, lowByte_toNat]

theorem rx_eq_acc_iff (s : State) (b : Byte) : s.rx b = s.acc ↔ 256 * b.toNat + s.rxck.toNat % 256 = s.acc.toNat := by
  rw [BitVec.toNat_eq, rx_toNat]

/-- What `s` becomes at CK.OK (R94). -/
def State.delivered (b : Byte) (s : State) : State :=
  { s with rxck := s.rx b, st := .seeking, readable := s.len.toNat,
           event := .frameOk (s.snapshot (s.pay.readList s.len.toNat) (s.rx b)) }

theorem exec_ckOk {s : State} (b : Byte) (hmax : s.len.toNat ≤ maxPayload) : exec (.ckOk b) s = .next (s.delivered b) := by
  rw [exec, execCkOk, State.copyPayload_of_le hmax]
  rfl

theorem Memory.getElem?_readList (m : Memory) {n i : Nat} (hi : i < n) : (m.readList n)[i]? = some (m.read i) := by
  rw [Memory.readList, List.getElem?_map, List.getElem?_range hi, Option.map_some]

/-- R41: in `Seeking` the read port shows the cells of the delivered frame. -/
theorem State.payRdata_of_seeking {s : State} (hs : s.st = .seeking) {i : BitVec 7} (hi : i.toNat < s.readable) :
    s.payRdata i = s.pay.read i.toNat :=
  if_pos (by simp [State.holdsDelivered, hs, ParserState.inFrame, hi])

/-- Settles O25: the event copies the fields, which stay in the registers, so that the outputs show them. -/
theorem matchingChecksumEmitsTheFrame : Obligations.MatchingChecksumEmitsTheFrame := by
  intro s b hmax
  refine ⟨⟨_, _, exec_ckOk b hmax, rfl, rfl, rfl, rfl, rfl, Memory.readList_length _ _, ?payload, rx_toNat s b, rfl, rfl,
    fun _ => rfl, rfl, rfl, rfl, rfl, rfl, rfl, rfl, rfl, ?port⟩, ?select⟩
  case payload => exact fun i hi => Memory.getElem?_readList s.pay hi
  case port =>
    intro i hi
    rw [State.payRdata_of_seeking (s := s.delivered b) rfl hi]
    exact Memory.getElem?_readList s.pay hi
  case select => exact fun hs hrx => step_of_selectByte hs (if_pos ((rx_eq_acc_iff s b).mpr hrx))

/-- Settles O26: the event carries `SRC`; the comparison of R69 selects the operation where it fails. -/
theorem checksumMismatchEmitsMalformed : Obligations.ChecksumMismatchEmitsMalformed := by
  intro s b
  refine ⟨⟨_, rfl, rfl, rx_toNat s b, rfl, fun _ => rfl, rfl, rfl, rfl, rfl⟩, fun hs hrx => ?_⟩
  exact step_of_selectByte hs (if_neg (mt (rx_eq_acc_iff s b).mp hrx))

/-! ### The read port where no delivered cell is -/

theorem State.payRdata_of_readable_le {s : State} {a : BitVec 7} (h : s.readable ≤ a.toNat) :
    s.payRdata a = Config.freeRead s a.toNat :=
  if_neg (by simp [State.holdsDelivered, h])

/-- Settles O57: after each of these operations the index is not below `readable`. -/
theorem undeliveredCellsReadAsFreeValues : Obligations.UndeliveredCellsReadAsFreeValues := by
  intro s t b a
  refine ⟨fun h => ?reset, fun h => ?ckBad, fun h => ?syncMiss, fun h => ?dstDrop, fun h hlen => ?ckOk,
    State.payRdata_of_readable_le, fun cfg => State.payRdata_of_readable_le (Nat.zero_le _)⟩
  case ckOk =>
    rw [exec, execCkOk] at h
    split at h <;> cases h
    exact State.payRdata_of_readable_le hlen
  case reset | ckBad | syncMiss | dstDrop =>
    cases h
    exact State.payRdata_of_readable_le (Nat.zero_le _)

end Sys2Proof.Machine
end

section
/-! SUPPORT. The invariants of R28 are kept by every step. The heart is the accumulator: in a summing state `ACC` is far enough
below 2^16 for one more byte (R72). -/

namespace Sys2Proof.Machine

/-! ### The sum of the frame in progress -/

/-- `ST` is in 2..8: a byte consumed there is added to `ACC` (R28 item a). -/
def ParserState.summing : ParserState → Bool
  | .seeking | .matchedFirstMarker | .readingChecksum0 | .readingChecksum1 => false
  | .readingLength0 | .readingLength1 | .readingMessageId0 | .readingMessageId1 => true
  | .readingSource | .readingDestination | .readingPayload => true

theorem ParserState.summing_iff (st : ParserState) : ParserState.summing st = true ↔
    ParserState.inFrame st = true ∧ st ≠ .readingChecksum0 ∧ st ≠ .readingChecksum1 := by
  cases st <;> decide

theorem lowByte_add_highByte_le (w : Word16) : (lowByte w).toNat + (highByte w).toNat ≤ w.toNat := by
  rw [lowByte_toNat, highByte_toNat]
  omega

/-- Before the destination byte at most seven bytes have been summed (R72). -/
theorem State.frameSum_add_le_of_readingDestination {s : State} (hs : s.st = .readingDestination) :
    s.frameSum + 255 ≤ 2040 := by
  simp only [State.frameSum, hs]
  omega

/-- R72: with one more byte the sum is at most the markers plus 33788. -/
theorem State.frameSum_add_le {s : State} (hcounts : s.countsOk) (hsum : ParserState.summing s.st = true) :
    s.frameSum + 255 ≤ s.cfg.marker0.toNat + s.cfg.marker1.toNat + 33788 := by
  cases hs : s.st
  case seeking | matchedFirstMarker | readingChecksum0 | readingChecksum1 => rw [hs] at hsum; cases hsum
  case readingPayload =>
    obtain ⟨-, hmax, hlt⟩ := (State.countsOk_of_readingPayload hs).mp hcounts
    have hlen := lowByte_add_highByte_le s.len
    have hpay := paySum_le s.pay s.cnt.toNat
    rw [maxPayload] at hmax
    simp only [State.frameSum, hs]
    omega
  all_goals
    simp only [State.frameSum, hs]
    omega

/-- In a frame the sum is at most the markers plus 33788 (R72). -/
theorem State.frameSum_le {s : State} (hcounts : s.countsOk) (hframe : ParserState.inFrame s.st = true) :
    s.frameSum ≤ s.cfg.marker0.toNat + s.cfg.marker1.toNat + 33788 := by
  cases hs : s.st
  case seeking | matchedFirstMarker => rw [hs] at hframe; cases hframe
  case readingChecksum0 | readingChecksum1 =>
    have hlen := lowByte_add_highByte_le s.len
    have hpay := paySum_le s.pay s.cnt.toNat
    simp only [State.countsOk, hs, maxPayload] at hcounts
    simp only [State.frameSum, hs]
    omega
  all_goals exact (Nat.le_add_right _ _).trans (State.frameSum_add_le hcounts (by rw [hs]; rfl))

/-- A byte consumed in a summing state adds itself to the sum of the frame (R68, R72). -/
theorem ByteStep.frameSum_eq {b : Byte} {s t : State} (h : ByteStep b s t) (hwf : s.pay.wf = true) (hcounts : s.countsOk)
    (hsum : ParserState.summing s.st = true) (hframe : ParserState.inFrame t.st = true) :
    t.frameSum = s.frameSum + b.toNat := by
  cases h with
  | seekMiss | seekHit | syncMiss | dstDrop | ckOk | ckBad => cases hframe
  | syncHit hs | ckLo hs => rw [hs] at hsum; cases hsum
  | lenLo hs | lenHi hs | idLo hs | idHi hs | src hs => simp [State.frameSum, hs]
  | dstZero hs | dstPay hs =>
    have hcnt := State.cnt_of_readingDestination hs hcounts
    simp [State.frameSum, hs, hcnt, paySum_zero]
  | payMore hs hc | payLast hs hc =>
    simp only [State.frameSum, hs, cnt_succ_toNat hc, paySum_write_succ hwf, Nat.add_assoc]

theorem ByteStep.acc_eq {b : Byte} {s t : State} (h : ByteStep b s t) (hsum : ParserState.summing s.st = true) :
    t.acc = s.acc + zext16 b := by
  cases h with
  | seekMiss hs | seekHit hs | syncHit hs | syncMiss hs | ckLo hs | ckOk hs | ckBad hs => rw [hs] at hsum; cases hsum
  | _ => rfl

/-- R72: in a summing state `ACC` takes the byte without reduction. -/
theorem ByteStep.acc_toNat {b : Byte} {s t : State} (h : ByteStep b s t) (hinv : s.Inv)
    (hsum : ParserState.summing s.st = true) : t.acc.toNat = s.acc.toNat + b.toNat := by
  have hacc := hinv.sum ((ParserState.summing_iff _).mp hsum).1
  have hle := State.frameSum_add_le hinv.counts hsum
  rw [h.acc_eq hsum, accAdd_toNat]
  omega

/-- SYNC.HIT begins the sum with the two markers (R67, R81). -/
theorem ByteStep.acc_cnt_of_readingLength0 {b : Byte} {s t : State} (h : ByteStep b s t)
    (hs : s.st = .matchedFirstMarker) (ht : t.st = .readingLength0) :
    t.acc.toNat = s.cfg.marker0.toNat + s.cfg.marker1.toNat ∧ t.cnt = 0 := by
  cases h with
  | syncHit => exact ⟨ckSeed_toNat s.cfg, rfl⟩
  | syncMiss => cases ht
  | _ hs' => rw [hs] at hs'; cases hs'

/-- R28 item a, kept by every byte. -/
theorem ByteStep.acc_eq_frameSum {b : Byte} {s t : State} (h : ByteStep b s t) (hinv : s.Inv)
    (hframe : ParserState.inFrame t.st = true) : t.acc.toNat = t.frameSum := by
  by_cases hsum : ParserState.summing s.st = true
  · have hacc := hinv.sum ((ParserState.summing_iff _).mp hsum).1
    rw [h.acc_toNat hinv hsum, h.frameSum_eq hinv.payWf hinv.counts hsum hframe, hacc]
  · cases h with
    | seekMiss | seekHit | syncMiss | dstDrop | ckOk | ckBad => cases hframe
    | syncHit => exact ckSeed_toNat s.cfg
    | ckLo hs => simpa only [State.frameSum, hs] using hinv.sum (by rw [hs]; rfl)
    | lenLo hs | lenHi hs | idLo hs | idHi hs | src hs | dstZero hs | dstPay hs | payMore hs | payLast hs =>
      rw [hs] at hsum
      exact absurd rfl hsum

/-! ### The invariants -/

theorem ByteStep.inv {b : Byte} {s t : State} (h : ByteStep b s t) (hinv : s.Inv) : t.Inv :=
  ⟨h.payWf hinv.payWf, h.countsOk hinv.counts, h.acc_eq_frameSum hinv⟩

/-- The invariants do not speak of the pins to come, nor of the event. -/
theorem State.Inv.advance {s : State} (h : s.Inv) : s.advance.Inv := ⟨h.payWf, h.counts, h.sum⟩

theorem State.Inv.emit {s : State} (h : s.Inv) (e : Event) : (s.emit e).Inv := ⟨h.payWf, h.counts, h.sum⟩

theorem State.Inv.offered {s : State} (h : s.Inv) (p : Pins) : (s.offered p).Inv := ⟨h.payWf, h.counts, h.sum⟩

/-- Settles O32: RESET leaves `Seeking` and a buffer in its canonical form, IDLE only clears the event, and each byte keeps the
form of the buffer, the counts, and the sum. -/
theorem stepKeepsTheInvariants : Obligations.StepKeepsTheInvariants := by
  intro s t hinv hstep
  obtain ⟨-, rfl⟩ | ⟨-, -, rfl⟩ | ⟨-, -, hbyte⟩ := step_cases hstep
  · exact State.inv_of_seeking rfl (Memory.ofFn_wf _)
  · exact hinv.advance.emit .none
  · exact hbyte.inv hinv.advance

/-- A step on an offered byte is a byte operation. -/
theorem byteStep_of_step {s t : State} {b : Byte} (h : step (s.offered (Pins.offer b)) = .next t) : ByteStep b s t :=
  byteStep_of_run ((step_offer s b).symm.trans h)

/-- Only SYNC.HIT goes to `ReadingLength(0)` (R96). -/
theorem ByteStep.matchedFirstMarker_of_readingLength0 {b : Byte} {s t : State} (h : ByteStep b s t)
    (ht : t.st = .readingLength0) : s.st = .matchedFirstMarker := by
  cases h with
  | syncHit hs => exact hs
  | _ => cases ht

/-- Settles O38: the sum of the frame bounds `ACC` before the byte, so that adding it needs no reduction. -/
theorem accumulatorNeverWrapsInAFrame : Obligations.AccumulatorNeverWrapsInAFrame := by
  intro s t b hinv hstep
  have hbyte := byteStep_of_step hstep
  refine ⟨fun hframe h0 h1 => ?summed, fun ht => ?begun, fun hframe => ?frame⟩
  case summed =>
    have hsum := (ParserState.summing_iff _).mpr ⟨hframe, h0, h1⟩
    have hacc := hbyte.acc_toNat hinv hsum
    have hframeSum := hinv.sum hframe
    have hle := State.frameSum_add_le hinv.counts hsum
    refine ⟨hacc, by omega, by omega, fun hcfg => ?_, fun hs => ?_⟩
    · have hmarkers : s.cfg.marker0.toNat + s.cfg.marker1.toNat = 255 := by rw [hcfg]; rfl
      omega
    · have := State.frameSum_add_le_of_readingDestination hs
      omega
  case begun => exact (hbyte.acc_cnt_of_readingLength0 (hbyte.matchedFirstMarker_of_readingLength0 ht) ht).1
  case frame =>
    have hle := State.frameSum_le (hbyte.countsOk hinv.counts) hframe
    exact ⟨hbyte.acc_eq_frameSum hinv hframe, by omega⟩

/-! ### The count -/

/-- In a frame `CNT` is at most 128 (R28 item e). -/
theorem State.cnt_le_of_inFrame {s : State} (hcounts : s.countsOk) (hframe : ParserState.inFrame s.st = true) :
    s.cnt.toNat ≤ 128 := by
  cases hs : s.st
  case seeking | matchedFirstMarker => rw [hs] at hframe; cases hframe
  all_goals
    simp only [State.countsOk, hs, maxPayload] at hcounts
    omega

theorem ByteStep.cnt_le {b : Byte} {s t : State} (h : ByteStep b s t) (hle : s.cnt.toNat ≤ 128) : t.cnt.toNat ≤ 128 := by
  cases h with
  | syncHit => exact Nat.zero_le _
  | payMore _ hc | payLast _ hc => exact (cnt_succ_toNat hc).trans_le hc
  | _ => exact hle

/-- Settles O56: the PAY operations count up only inside the buffer, and SYNC.HIT starts from 0. -/
theorem countStaysWithinTheBuffer : Obligations.CountStaysWithinTheBuffer := by
  intro s t hinv hstep
  have hinv' := stepKeepsTheInvariants s t hinv hstep
  refine ⟨fun hr hle => ?kept, State.cnt_le_of_inFrame hinv'.counts, fun hs ht => ?begun⟩
  all_goals obtain ⟨hr', rfl⟩ | ⟨-, -, rfl⟩ | ⟨-, -, hbyte⟩ := step_cases hstep
  case kept.inl => exact absurd (hr.symm.trans hr') (by decide)
  case kept.inr.inl => exact hle
  case kept.inr.inr => exact hbyte.cnt_le hle
  case begun.inl => cases ht
  case begun.inr.inl => exact absurd (hs.symm.trans ht) (by decide)
  case begun.inr.inr => exact (hbyte.acc_cnt_of_readingLength0 hs ht).2

/-! ### The frame of an event -/

/-- When the payload is complete, the sum of the frame is that of its header and payload bytes (R55). -/
theorem State.frameSum_of_readingChecksum1 {s : State} (hs : s.st = .readingChecksum1) (hcnt : s.cnt.toNat = s.len.toNat) :
    s.frameSum = byteSum (frameBody s.cfg s.msgid s.src s.dst (s.pay.readList s.len.toNat)) := by
  simp [State.frameSum, hs, hcnt, frameBody, paySum, Nat.add_assoc]

theorem checksum_eq_of_toNat {w : Word16} {bs : List Byte} (h : w.toNat = byteSum bs) : w = checksum bs := by
  rw [checksum, ← h, BitVec.ofNat_toNat, BitVec.setWidth_eq]

/-- The received checksum is `ACC`, which is the sum of the frame's bytes, read back from the registers (R94). -/
theorem ByteStep.frame_valid {b : Byte} {s t : State} {f : Frame} (h : ByteStep b s t) (hinv : s.Inv)
    (hevent : t.event = .frameOk f) : f.Valid s.cfg := by
  cases h with
  | ckOk hs hmax hrx =>
    cases hevent
    obtain ⟨-, hcnt⟩ := (State.countsOk_of_readingChecksum1 hs).mp hinv.counts
    have hsum := (hinv.sum (by rw [hs]; rfl)).trans (State.frameSum_of_readingChecksum1 hs hcnt)
    exact ⟨Memory.readList_length _ _, hmax, hrx.trans (checksum_eq_of_toNat hsum)⟩
  | _ => cases hevent

/-- Settles O40: a `FrameOk` comes of a byte, in a state of the invariants. -/
theorem emittedFramesAreValid : Obligations.EmittedFramesAreValid := by
  intro s t f hinv hstep hevent
  obtain ⟨-, rfl⟩ | ⟨-, -, rfl⟩ | ⟨-, -, hbyte⟩ := step_cases hstep
  · cases hevent
  · cases hevent
  · exact hbyte.frame_valid hinv.advance hevent

/-- Settles O44: the comparison at the last byte is of the two bytes taken with the checksum of the body. -/
theorem headerLengthAloneDelimitsTheFrame : Obligations.HeaderLengthAloneDelimitsTheFrame := by
  intro s m src dst p c0 c1 hinv hs hp
  exact ⟨feed_frameBody_checksum_eq hs hinv.payWf m src dst hp, feed_frameBody_checksum_ne hs m src dst hp⟩

end Sys2Proof.Machine
end

section
/-! SUPPORT. Whole-machine rules about single cycles: the next-state table (R96), and the writers of each register (R16 to R22,
R35). -/

namespace Sys2Proof.Machine

/-! ### The next state -/

/-- R96: the rows of the next-state table, by the state a byte is consumed in. -/
def ParserState.successors : ParserState → List ParserState
  | .seeking => [.seeking, .matchedFirstMarker]
  | .matchedFirstMarker => [.readingLength0, .seeking]
  | .readingLength0 => [.readingLength1]
  | .readingLength1 => [.readingMessageId0]
  | .readingMessageId0 => [.readingMessageId1]
  | .readingMessageId1 => [.readingSource]
  | .readingSource => [.readingDestination]
  | .readingDestination => [.seeking, .readingChecksum0, .readingPayload]
  | .readingPayload => [.readingPayload, .readingChecksum0]
  | .readingChecksum0 => [.readingChecksum1]
  | .readingChecksum1 => [.seeking]

theorem ByteStep.st_mem_successors {b : Byte} {s t : State} (h : ByteStep b s t) :
    t.st ∈ ParserState.successors s.st := by
  cases h with
  | seekMiss hs | seekHit hs | syncHit hs | syncMiss hs | lenLo hs | lenHi hs | idLo hs | idHi hs | src hs | dstDrop hs
  | dstZero hs | dstPay hs | payMore hs | payLast hs | ckLo hs | ckOk hs | ckBad hs =>
    simp [ParserState.successors, hs]

/-- Settles O35: RESET and IDLE by their effect, a byte by the row of its state. -/
theorem nextStateTable : Obligations.NextStateTable := by
  intro s t hstep
  obtain ⟨hr, rfl⟩ | ⟨hr, hv, rfl⟩ | ⟨hr, hv, hbyte⟩ := step_cases hstep
  · exact ⟨fun _ => rfl, fun h => absurd (h.symm.trans hr) (by decide), fun h => absurd (h.symm.trans hr) (by decide)⟩
  · exact ⟨fun h => absurd (h.symm.trans hr) (by decide), fun _ _ => rfl,
      fun _ h => absurd (h.symm.trans hv) (by decide)⟩
  · refine ⟨fun h => absurd (h.symm.trans hr) (by decide), fun _ h => absurd (h.symm.trans hv) (by decide), fun _ _ => ?_⟩
    have hmem := hbyte.st_mem_successors
    rw [State.advance_st] at hmem
    refine ⟨?_, ?_, ?_, ?_, ?_, ?_, ?_, ?_, ?_, ?_, ?_⟩ <;>
      (intro hs; simpa only [hs, ParserState.successors, List.mem_cons, List.not_mem_nil, or_false] using hmem)

/-! ### The writers of each register -/

/-- What an operation makes of a state where it does not stop (R77 to R95). -/
def Instr.effect (i : Instr) (s : State) : State :=
  match i with
  | .reset => s.unspecify
  | .idle => s.emit .none
  | .seekMiss _ => (s.goto .seeking).emit .none
  | .seekHit _ => (s.goto .matchedFirstMarker).emit .none
  | .syncHit _ => ((s.accLoad.setCnt 0).goto .readingLength0).emit .none
  | .syncMiss _ => s.takeAbort .none
  | .lenLo b => (s.setLen (withLowByte s.len b)).headerStep b .readingLength1
  | .lenHi b => (s.setLen (withHighByte s.len b)).headerStep b .readingMessageId0
  | .idLo b => (s.setMsgid (withLowByte s.msgid b)).headerStep b .readingMessageId1
  | .idHi b => (s.setMsgid (withHighByte s.msgid b)).headerStep b .readingSource
  | .src b => (s.setSrc b).headerStep b .readingDestination
  | .dstDrop b => (s.takeDst b).takeAbort .none
  | .dstZero b => ((s.takeDst b).goto .readingChecksum0).emit .none
  | .dstPay b => ((s.takeDst b).goto .readingPayload).emit .none
  | .payMore b => s.withPayloadByte b .readingPayload
  | .payLast b => s.withPayloadByte b .readingChecksum0
  | .ckLo b => ((s.setRxck (withLowByte s.rxck b)).goto .readingChecksum1).emit .none
  | .ckOk b => s.delivered b
  | .ckBad b => (s.setRxck (withHighByte s.rxck b)).takeAbort (.malformed s.src)

/-- An operation that answers a next state has its effect on it. -/
theorem exec_eq_effect {i : Instr} {s t : State} (h : exec i s = .next t) : t = Instr.effect i s := by
  cases i
  case payMore b =>
    rw [exec, execPayMore] at h
    split at h <;> cases h
    next u hu =>
    obtain ⟨-, rfl⟩ := State.storePayload_ok hu
    rfl
  case payLast b =>
    rw [exec, execPayLast] at h
    split at h <;> cases h
    next u hu =>
    obtain ⟨-, rfl⟩ := State.storePayload_ok hu
    rfl
  case ckOk b =>
    rw [exec, execCkOk] at h
    split at h <;> cases h
    next p hp =>
    obtain ⟨-, rfl⟩ := State.copyPayload_ok hp
    rfl
  all_goals
    cases h
    rfl

theorem effect_cfg (i : Instr) (s : State) : (Instr.effect i s).cfg = s.cfg := by
  cases i <;> rfl

theorem effect_input (i : Instr) (s : State) : (Instr.effect i s).input = s.input := by
  cases i <;> rfl

section
variable {i : Instr} {s : State} (hr : i ≠ .reset)
include hr

theorem effect_draws : (Instr.effect i s).draws = s.draws := by
  cases i with
  | reset => exact absurd rfl hr
  | _ => rfl

theorem writer_of_lenLow (hne : lowByte (Instr.effect i s).len ≠ lowByte s.len) : ∃ b, i = .lenLo b := by
  cases i with
  | reset => exact absurd rfl hr
  | lenLo b => exact ⟨b, rfl⟩
  | lenHi b => exact absurd (lowByte_withHighByte s.len b) hne
  | _ => exact absurd rfl hne

theorem writer_of_lenHigh (hne : highByte (Instr.effect i s).len ≠ highByte s.len) : ∃ b, i = .lenHi b := by
  cases i with
  | reset => exact absurd rfl hr
  | lenHi b => exact ⟨b, rfl⟩
  | lenLo b => exact absurd (highByte_withLowByte s.len b) hne
  | _ => exact absurd rfl hne

theorem writer_of_msgidLow (hne : lowByte (Instr.effect i s).msgid ≠ lowByte s.msgid) : ∃ b, i = .idLo b := by
  cases i with
  | reset => exact absurd rfl hr
  | idLo b => exact ⟨b, rfl⟩
  | idHi b => exact absurd (lowByte_withHighByte s.msgid b) hne
  | _ => exact absurd rfl hne

theorem writer_of_msgidHigh (hne : highByte (Instr.effect i s).msgid ≠ highByte s.msgid) : ∃ b, i = .idHi b := by
  cases i with
  | reset => exact absurd rfl hr
  | idHi b => exact ⟨b, rfl⟩
  | idLo b => exact absurd (highByte_withLowByte s.msgid b) hne
  | _ => exact absurd rfl hne

theorem writer_of_src (hne : (Instr.effect i s).src ≠ s.src) : ∃ b, i = .src b := by
  cases i with
  | reset => exact absurd rfl hr
  | src b => exact ⟨b, rfl⟩
  | _ => exact absurd rfl hne

theorem writer_of_dst (hne : (Instr.effect i s).dst ≠ s.dst) : ∃ b, i = .dstDrop b ∨ i = .dstZero b ∨ i = .dstPay b := by
  cases i with
  | reset => exact absurd rfl hr
  | dstDrop b | dstZero b | dstPay b => exact ⟨b, by simp⟩
  | _ => exact absurd rfl hne

theorem writer_of_cnt (hne : (Instr.effect i s).cnt ≠ s.cnt) : ∃ b, i = .syncHit b ∨ i = .payMore b ∨ i = .payLast b := by
  cases i with
  | reset => exact absurd rfl hr
  | syncHit b | payMore b | payLast b => exact ⟨b, by simp⟩
  | _ => exact absurd rfl hne

theorem writer_of_acc (hne : (Instr.effect i s).acc ≠ s.acc) : ∃ b, i = .syncHit b ∨ i = .lenLo b ∨ i = .lenHi b ∨
    i = .idLo b ∨ i = .idHi b ∨ i = .src b ∨ i = .dstDrop b ∨ i = .dstZero b ∨ i = .dstPay b ∨ i = .payMore b ∨
    i = .payLast b := by
  cases i with
  | reset => exact absurd rfl hr
  | syncHit b | lenLo b | lenHi b | idLo b | idHi b | src b | dstDrop b | dstZero b | dstPay b | payMore b | payLast b =>
    exact ⟨b, by simp⟩
  | _ => exact absurd rfl hne

theorem writer_of_rxckLow (hne : lowByte (Instr.effect i s).rxck ≠ lowByte s.rxck) : ∃ b, i = .ckLo b := by
  cases i with
  | reset => exact absurd rfl hr
  | ckLo b => exact ⟨b, rfl⟩
  | ckOk b | ckBad b => exact absurd (lowByte_withHighByte s.rxck b) hne
  | _ => exact absurd rfl hne

theorem writer_of_rxckHigh (hne : highByte (Instr.effect i s).rxck ≠ highByte s.rxck) : ∃ b, i = .ckOk b ∨ i = .ckBad b := by
  cases i with
  | reset => exact absurd rfl hr
  | ckOk b | ckBad b => exact ⟨b, by simp⟩
  | ckLo b => exact absurd (highByte_withLowByte s.rxck b) hne
  | _ => exact absurd rfl hne

theorem writer_of_readable (hne : (Instr.effect i s).readable ≠ s.readable) : ∃ b, i = .syncMiss b ∨ i = .dstDrop b ∨
    i = .ckOk b ∨ i = .ckBad b := by
  cases i with
  | reset => exact absurd rfl hr
  | syncMiss b | dstDrop b | ckOk b | ckBad b => exact ⟨b, by simp⟩
  | _ => exact absurd rfl hne

/-- A cell is written by the two PAY operations only, and only the cell at `CNT` (R35, R91, R92). -/
theorem writer_of_pay (hwf : s.pay.wf = true) {a : Nat} (hne : (Instr.effect i s).pay.read a ≠ s.pay.read a) :
    a = s.cnt.toNat ∧ ∃ b, i = .payMore b ∨ i = .payLast b := by
  cases i with
  | reset => exact absurd rfl hr
  | payMore b | payLast b =>
    refine ⟨by_contra fun ha => hne ?_, b, by simp⟩
    exact (Memory.read_write hwf s.cnt.toNat b a).trans (if_neg ha)
  | _ => exact absurd rfl hne

end

/-- Settles O36: an operation has its one effect, and that effect names the registers written. -/
theorem eachRegisterHasItsWriters : Obligations.EachRegisterHasItsWriters := by
  intro i s t hwf hexec
  obtain rfl := exec_eq_effect hexec
  exact ⟨effect_cfg i s, effect_input i s, fun hr => ⟨effect_draws hr, writer_of_lenLow hr, writer_of_lenHigh hr,
    writer_of_msgidLow hr, writer_of_msgidHigh hr, writer_of_src hr, writer_of_dst hr, writer_of_cnt hr, writer_of_acc hr,
    writer_of_rxckLow hr, writer_of_rxckHigh hr, writer_of_readable hr, fun _ => writer_of_pay hr hwf⟩⟩

end Sys2Proof.Machine
end

section
/-! SUPPORT. What a byte writes, by the state it is consumed in, and where in the frame that state stands (R48); hence how long the
registers and the buffer keep what an event left (R137 to R139). -/

namespace Sys2Proof.Machine

/-! ### What a byte writes, by the state it is consumed in -/

/-- R79 to R95, read by register: the state names the half register, register or cell that takes the byte. -/
structure ByteWrites (b : Byte) (s t : State) : Prop where
  lenLo : lowByte t.len = if s.st = .readingLength0 then b else lowByte s.len
  lenHi : highByte t.len = if s.st = .readingLength1 then b else highByte s.len
  idLo  : lowByte t.msgid = if s.st = .readingMessageId0 then b else lowByte s.msgid
  idHi  : highByte t.msgid = if s.st = .readingMessageId1 then b else highByte s.msgid
  src   : t.src = if s.st = .readingSource then b else s.src
  dst   : t.dst = if s.st = .readingDestination then b else s.dst
  pay   : t.pay = if s.st = .readingPayload then s.pay.write s.cnt.toNat b else s.pay
  ckLo  : lowByte t.rxck = if s.st = .readingChecksum0 then b else lowByte s.rxck
  ckHi  : highByte t.rxck = if s.st = .readingChecksum1 then b else highByte s.rxck
  cnt   : t.cnt = if t.st = .readingLength0 then 0 else if s.st = .readingPayload then s.cnt + 1 else s.cnt
  acc   : t.acc = if t.st = .readingLength0 then ckSeed s.cfg
    else if ParserState.summing s.st = true then s.acc + zext16 b else s.acc

theorem ByteStep.writes {b : Byte} {s t : State} (h : ByteStep b s t) : ByteWrites b s t := by
  cases h with
  | seekMiss hs | seekHit hs | syncHit hs | syncMiss hs | lenLo hs | lenHi hs | idLo hs | idHi hs | src hs | dstDrop hs
  | dstZero hs | dstPay hs | payMore hs | payLast hs | ckLo hs | ckOk hs | ckBad hs =>
    constructor <;> simp [hs, State.rx, ParserState.summing]

/-! ### Where in the frame a state stands -/

/-- The offset in the frame (R48) of the byte consumed next; behind the destination, that of a frame without payload. -/
def ParserState.offset : ParserState → Nat
  | .seeking => 0
  | .matchedFirstMarker => 1
  | .readingLength0 => 2
  | .readingLength1 => 3
  | .readingMessageId0 => 4
  | .readingMessageId1 => 5
  | .readingSource => 6
  | .readingDestination => 7
  | .readingPayload => 8
  | .readingChecksum0 => 8
  | .readingChecksum1 => 9

/-- The offset in the frame of the byte consumed next: behind the header, `CNT` payload bytes have been stored. -/
def State.offset (s : State) : Nat :=
  ParserState.offset s.st + if ParserState.offset s.st < 8 then 0 else s.cnt.toNat

theorem State.offset_st_le (s : State) : ParserState.offset s.st ≤ s.offset := Nat.le_add_right _ _

/-- No two states stand at one offset before the payload. -/
theorem ParserState.eq_of_offset_eq {st st' : ParserState} (hle : ParserState.offset st ≤ 7)
    (h : ParserState.offset st' = ParserState.offset st) : st' = st := by
  cases st <;> cases st' <;> simp [ParserState.offset] at hle h ⊢

/-- Up to the destination byte the offset tells the state. -/
theorem State.st_eq_iff_offset {s : State} {st : ParserState} (hst : ParserState.offset st ≤ 7) :
    s.st = st ↔ s.offset = ParserState.offset st := by
  refine ⟨fun h => ?_, fun h => ParserState.eq_of_offset_eq hst ?_⟩
  · rw [State.offset, h, if_pos (by omega), Nat.add_zero]
  · rw [State.offset] at h
    split at h <;> omega

theorem State.offset_of_readingPayload {s : State} (hs : s.st = .readingPayload) : s.offset = 8 + s.cnt.toNat := by
  simp [State.offset, hs, ParserState.offset]

theorem State.offset_of_readingChecksum0 {s : State} (hs : s.st = .readingChecksum0) : s.offset = 8 + s.cnt.toNat := by
  simp [State.offset, hs, ParserState.offset]

/-- The two markers come before the bytes that `heardCount` counts. -/
theorem State.offset_eq_heardCount {s : State} (hframe : ParserState.inFrame s.st = true) : s.offset = s.heardCount + 2 := by
  cases hs : s.st
  case seeking | matchedFirstMarker => rw [hs] at hframe; cases hframe
  case readingPayload | readingChecksum0 | readingChecksum1 =>
    simp only [State.offset, State.heardCount, hs, ParserState.offset, Nat.lt_irrefl, Nat.reduceLT, if_false]
    omega
  all_goals simp [State.offset, State.heardCount, hs, ParserState.offset]

/-- A byte is consumed at the next offset, unless it leaves the frame. -/
theorem ByteStep.offset_eq {b : Byte} {s t : State} (h : ByteStep b s t) (hcounts : s.countsOk) :
    t.st = .seeking ∨ t.offset = s.offset + 1 := by
  cases h with
  | seekMiss | syncMiss | dstDrop | ckOk | ckBad => exact .inl rfl
  | seekHit hs | syncHit hs | lenLo hs | lenHi hs | idLo hs | idHi hs | src hs =>
    exact .inr (by simp [State.offset, hs, ParserState.offset])
  | ckLo hs => exact .inr (by simp [State.offset, hs, ParserState.offset]; omega)
  | dstZero hs | dstPay hs =>
    have hcnt := State.cnt_of_readingDestination hs hcounts
    exact .inr (by simp [State.offset, hs, ParserState.offset, hcnt])
  | payMore hs hc | payLast hs hc =>
    exact .inr (by simp only [State.offset, hs, ParserState.offset, cnt_succ_toNat hc, Nat.lt_irrefl, if_false, Nat.add_assoc])

/-- In a frame the stored bytes lie behind the header. -/
theorem State.cnt_eq_zero_or_offset {s : State} (hcounts : s.countsOk) (hframe : ParserState.inFrame s.st = true) :
    s.cnt.toNat = 0 ∨ 8 + s.cnt.toNat ≤ s.offset := by
  cases hs : s.st
  case seeking | matchedFirstMarker => rw [hs] at hframe; cases hframe
  case readingPayload | readingChecksum0 | readingChecksum1 =>
    exact .inr (by simp [State.offset, hs, ParserState.offset])
  all_goals exact .inl (by simpa only [State.countsOk, hs] using hcounts)

/-! ### How long an event's registers and cells are kept (R137 to R139) -/

theorem ByteStep.offset_le {b : Byte} {s t : State} (h : ByteStep b s t) (hcounts : s.countsOk) : t.offset ≤ s.offset + 1 := by
  obtain hseek | hsucc := h.offset_eq hcounts
  · rw [(State.st_eq_iff_offset (st := .seeking) (by decide)).mp hseek]
    exact Nat.zero_le _
  · exact hsucc.le

theorem feed_countsOk {s t : State} {bs : List Byte} {es : List Event} (h : feed s bs = .next (t, es)) (hs : s.countsOk) :
    t.countsOk := feed_keeps ByteStep.countsOk h hs

theorem feed_offset_le {t : State} : ∀ {bs : List Byte} {s : State} {es : List Event}, feed s bs = .next (t, es) →
    s.countsOk → t.offset ≤ s.offset + bs.length
  | [], _, _, h, _ => by cases h; exact le_rfl
  | b :: bs, s, _, h, hs => by
    obtain ⟨u, es, hu, hrest, -⟩ := feed_cons_cases h
    have hfirst := hu.offset_le hs
    have hlast := feed_offset_le hrest (hu.countsOk hs)
    rw [List.length_cons]
    omega

/-- What no byte before offset `n` writes is kept while the run stays before it. -/
theorem feed_keeps_before {α : Type} {f : State → α} {n : Nat}
    (hf : ∀ {b s t}, ByteStep b s t → s.countsOk → s.pay.wf = true → s.offset < n → f t = f s) {t : State} :
    ∀ {bs : List Byte} {s : State} {es : List Event}, feed s bs = .next (t, es) → s.countsOk → s.pay.wf = true →
      s.offset + bs.length ≤ n → f t = f s
  | [], _, _, h, _, _, _ => by cases h; rfl
  | b :: bs, s, _, h, hs, hwf, hn => by
    obtain ⟨u, es, hu, hrest, -⟩ := feed_cons_cases h
    have hfirst := hu.offset_le hs
    rw [List.length_cons] at hn
    exact (feed_keeps_before hf hrest (hu.countsOk hs) (hu.payWf hwf) (by omega)).trans (hf hu hs hwf (by omega))

theorem State.st_ne_of_offset_lt {s : State} {st : ParserState} (h : s.offset < ParserState.offset st) : s.st ≠ st := by
  rintro rfl
  exact absurd s.offset_st_le (by omega)

/-- A byte writes the cell at its own offset (R48, R91). -/
theorem ByteStep.read_pay_of_offset_lt {b : Byte} {s t : State} (h : ByteStep b s t) (hwf : s.pay.wf = true) {i : Nat}
    (hlt : s.offset < 8 + i) : t.pay.read i = s.pay.read i := by
  obtain hpay | ⟨hs, -, hpay⟩ := h.pay_eq_or_write
  · rw [hpay]
  · have hi : i ≠ s.cnt.toNat := by
      rw [State.offset_of_readingPayload hs] at hlt
      omega
    rw [hpay, Memory.read_write hwf, if_neg hi]

/-- In the windows of R138 a delivered cell is still shown: the frame in progress has not come to it. -/
theorem State.payRdata_of_offset_lt {s : State} (hcounts : s.countsOk) {i : BitVec 7} (hi : i.toNat < s.readable)
    (hlt : s.offset < 9 + i.toNat) : s.payRdata i = s.pay.read i.toNat := by
  refine if_pos ?_
  have hfree : ParserState.inFrame s.st = true → ¬ i.toNat < s.cnt.toNat := fun hframe => by
    obtain h0 | hle := State.cnt_eq_zero_or_offset hcounts hframe <;> omega
  simpa [State.holdsDelivered, hi, or_iff_not_imp_left] using hfree

theorem ByteStep.acc_cnt_of_offset_lt_one {b : Byte} {s t : State} (h : ByteStep b s t) (hlt : s.offset < 1) :
    t.acc = s.acc ∧ t.cnt = s.cnt := by
  have hs : s.st = .seeking := (State.st_eq_iff_offset (by decide)).mpr (Nat.lt_one_iff.mp hlt)
  cases h with
  | seekMiss | seekHit => exact ⟨rfl, rfl⟩
  | _ hs' => rw [hs] at hs'; cases hs'

/-- Settles O53: a run of that many bytes from `Seeking` has not come to the offset whose byte writes the register or the cell. -/
theorem retentionWindowsAfterAnEvent : Obligations.RetentionWindowsAfterAnEvent := by
  intro s t bs es hwf hs hfeed
  have hcounts : s.countsOk := by simp only [State.countsOk, hs]
  have h0 : s.offset = 0 := (State.st_eq_iff_offset (st := .seeking) (by decide)).mp hs
  have hoffset := feed_offset_le hfeed hcounts
  have kept {α : Type} (f : State → α) {n : Nat} (hlen : bs.length < n + 1)
      (hf : ∀ {b u v}, ByteStep b u v → u.pay.wf = true → u.offset < n → f v = f u) : f t = f s :=
    feed_keeps_before (fun h _ => hf h) hfeed hcounts hwf (by omega)
  have hcell : ∀ i, bs.length < 9 + i → t.pay.read i = s.pay.read i := fun i hlen =>
    kept (fun u => u.pay.read i) (n := 8 + i) (by omega) fun h hwf hlt => h.read_pay_of_offset_lt hwf hlt
  refine ⟨fun hlen => ⟨?acc, ?cnt⟩, fun hlen => ?lenLo, fun hlen => ?lenHi, fun hlen => ?idLo, fun hlen => ?idHi,
    fun hlen => ?src, fun hlen => ?dst, fun hlen => ?ckLo, fun hlen => ?ckHi, hcell, fun i hlen hi => ?port⟩
  case acc => exact kept State.acc hlen fun h _ hlt => (h.acc_cnt_of_offset_lt_one hlt).1
  case cnt => exact kept State.cnt hlen fun h _ hlt => (h.acc_cnt_of_offset_lt_one hlt).2
  case lenLo =>
    exact kept (fun u => lowByte u.len) hlen fun h _ hlt => h.writes.lenLo.trans (if_neg (State.st_ne_of_offset_lt hlt))
  case lenHi =>
    exact kept (fun u => highByte u.len) hlen fun h _ hlt => h.writes.lenHi.trans (if_neg (State.st_ne_of_offset_lt hlt))
  case idLo =>
    exact kept (fun u => lowByte u.msgid) hlen fun h _ hlt => h.writes.idLo.trans (if_neg (State.st_ne_of_offset_lt hlt))
  case idHi =>
    exact kept (fun u => highByte u.msgid) hlen fun h _ hlt => h.writes.idHi.trans (if_neg (State.st_ne_of_offset_lt hlt))
  case src => exact kept State.src hlen fun h _ hlt => h.writes.src.trans (if_neg (State.st_ne_of_offset_lt hlt))
  case dst => exact kept State.dst hlen fun h _ hlt => h.writes.dst.trans (if_neg (State.st_ne_of_offset_lt hlt))
  case ckLo =>
    exact kept (fun u => lowByte u.rxck) hlen fun h _ hlt => h.writes.ckLo.trans (if_neg (State.st_ne_of_offset_lt hlt))
  case ckHi =>
    exact kept (fun u => highByte u.rxck) hlen fun h _ hlt => h.writes.ckHi.trans (if_neg (State.st_ne_of_offset_lt hlt))
  case port => rw [State.payRdata_of_offset_lt (feed_countsOk hfeed hcounts) hi (by omega), hcell _ hlen]

end Sys2Proof.Machine
end

section
/-! SUPPORT. The bytes received since SYNC.HIT, as a history beside the state (R28 items a to d). -/

namespace Sys2Proof.Machine

/-! ### Offsets within a frame -/

/-- Before CK.LO no checksum byte has been received. -/
theorem State.offset_le_of_ne {s : State} (hne : s.st ≠ .readingChecksum1) : s.offset ≤ 8 + s.cnt.toNat := by
  have hst : ParserState.offset s.st ≤ 8 := by
    cases hs : s.st
    case readingChecksum1 => exact absurd hs hne
    all_goals decide
  rw [State.offset]
  split <;> omega

section
variable {b : Byte} {s t : State} (h : ByteStep b s t)
include h

theorem ByteStep.readingChecksum0_of_readingChecksum1 (ht : t.st = .readingChecksum1) : s.st = .readingChecksum0 := by
  cases h with
  | ckLo hs => exact hs
  | _ => cases ht

theorem ByteStep.offset_le_of_summing (hsum : ParserState.summing s.st = true) : t.offset ≤ 8 + t.cnt.toNat :=
  State.offset_le_of_ne fun ht => by
    rw [h.readingChecksum0_of_readingChecksum1 ht] at hsum
    cases hsum

/-- Within a frame the offset goes up by one. -/
theorem ByteStep.offset_of_inFrame (hcounts : s.countsOk) (hframe : ParserState.inFrame t.st = true) :
    t.offset = s.offset + 1 :=
  (h.offset_eq hcounts).resolve_left fun hseek => by rw [hseek] at hframe; cases hframe

/-- No byte in a frame begins another one (R81). -/
theorem ByteStep.st_ne_of_inFrame (hframe : ParserState.inFrame s.st = true) : t.st ≠ .readingLength0 := fun ht => by
  rw [h.matchedFirstMarker_of_readingLength0 ht] at hframe
  cases hframe

theorem ByteStep.cnt_of_inFrame (hframe : ParserState.inFrame s.st = true) :
    t.cnt = if s.st = .readingPayload then s.cnt + 1 else s.cnt :=
  h.writes.cnt.trans (if_neg (h.st_ne_of_inFrame hframe))

theorem ByteStep.acc_of_inFrame (hframe : ParserState.inFrame s.st = true) :
    t.acc = if ParserState.summing s.st = true then s.acc + zext16 b else s.acc :=
  h.writes.acc.trans (if_neg (h.st_ne_of_inFrame hframe))

/-- A byte that stays in a frame is summed, or is the first of the checksum. -/
theorem ByteStep.summing_or_readingChecksum0 (hframe : ParserState.inFrame s.st = true)
    (hframe' : ParserState.inFrame t.st = true) : ParserState.summing s.st = true ∨ s.st = .readingChecksum0 := by
  refine or_iff_not_imp_right.mpr fun h0 => (ParserState.summing_iff _).mpr ⟨hframe, h0, fun h1 => ?_⟩
  have hmem := h.st_mem_successors
  rw [h1] at hmem
  rw [List.mem_singleton.mp hmem] at hframe'
  cases hframe'

end

/-! ### One more byte in the history -/

/-- A register that takes the byte where it is the next of the history, and is otherwise kept, holds its own byte of it. -/
theorem held_concat {h : List Byte} {b v v' : Byte} {i : Nat} (hold : ∀ x, h[i]? = some x → v = x)
    (hv : v' = if i = h.length then b else v) (x : Byte) (hx : (h ++ [b])[i]? = some x) : v' = x := by
  rcases Nat.lt_trichotomy i h.length with hlt | rfl | hgt
  · rw [hv, if_neg hlt.ne]
    exact hold x (by rwa [List.getElem?_append_left hlt] at hx)
  · rw [List.getElem?_concat_length] at hx
    rw [hv, if_pos rfl, Option.some.inj hx]
  · rw [List.getElem?_eq_none (by rw [List.length_append, List.length_singleton]; omega)] at hx
    cases hx

section
variable {b : Byte} {h : List Byte} {s t : State} (hrec : s.Received h) (hframe : ParserState.inFrame s.st = true)
include hrec hframe

theorem State.Received.offset_eq : s.offset = h.length + 2 := by
  rw [State.offset_eq_heardCount hframe, hrec.count]

/-- R28 items a and b: a header byte is held where the byte at its offset goes. -/
theorem State.Received.header_concat {st : ParserState} {v v' : Byte} {i : Nat} (hi : ParserState.offset st = i + 2)
    (hle : i ≤ 5) (hold : ∀ x, h[i]? = some x → v = x) (hv : v' = if s.st = st then b else v) :
    ∀ x, (h ++ [b])[i]? = some x → v' = x := by
  refine held_concat hold (hv.trans (if_congr ?_ rfl rfl))
  rw [State.st_eq_iff_offset (by omega), hrec.offset_eq hframe]
  omega

variable (hbyte : ByteStep b s t) (hinv : s.Inv)
include hbyte hinv

/-- R28 item d: each cell below `CNT` holds its own payload byte. -/
theorem State.Received.payload_concat (i : Nat) (x : Byte) (hi : i < t.cnt.toNat) (hx : (h ++ [b])[6 + i]? = some x) :
    t.pay.read i = x := by
  have hlen := hrec.offset_eq hframe
  have hcnt := hbyte.cnt_of_inFrame hframe
  have hpay := hbyte.writes.pay
  by_cases hs : s.st = .readingPayload
  · rw [State.offset_of_readingPayload hs] at hlen
    rw [if_pos hs] at hpay
    refine held_concat (v := s.pay.read i) (fun y hy => ?_) ?_ x hx
    · obtain ⟨hlt, -⟩ := List.getElem?_eq_some_iff.mp hy
      exact hrec.payload i y (by omega) hy
    · rw [hpay, Memory.read_write hinv.payWf]
      exact if_congr (by omega) rfl rfl
  · rw [if_neg hs] at hcnt hpay
    rw [hcnt] at hi
    have hbehind : 8 + s.cnt.toNat ≤ s.offset := (State.cnt_eq_zero_or_offset hinv.counts hframe).resolve_left (by omega)
    rw [List.getElem?_append_left (by omega)] at hx
    rw [hpay]
    exact hrec.payload i x hi hx

variable (hframe' : ParserState.inFrame t.st = true)
include hframe'

theorem State.Received.ckLo_concat (x : Byte) (hx : (h ++ [b])[6 + t.cnt.toNat]? = some x) : lowByte t.rxck = x := by
  have hlen := hrec.offset_eq hframe
  have hnext := hbyte.offset_of_inFrame hinv.counts hframe'
  obtain hsum | hs := hbyte.summing_or_readingChecksum0 hframe hframe'
  · have hbefore := hbyte.offset_le_of_summing hsum
    rw [List.getElem?_eq_none (by rw [List.length_append, List.length_singleton]; omega)] at hx
    cases hx
  · have hcnt : t.cnt = s.cnt := (hbyte.cnt_of_inFrame hframe).trans (if_neg (by rw [hs]; decide))
    rw [State.offset_of_readingChecksum0 hs] at hlen
    rw [hcnt] at hx
    refine held_concat hrec.ckLo ?_ x hx
    rw [hbyte.writes.ckLo, if_pos hs, if_pos (by omega)]

theorem State.Received.acc_concat :
    t.acc.toNat = t.cfg.marker0.toNat + t.cfg.marker1.toNat + byteSum ((h ++ [b]).take (6 + t.cnt.toNat)) := by
  have hlen := hrec.offset_eq hframe
  have hnext := hbyte.offset_of_inFrame hinv.counts hframe'
  have hacc := hrec.acc
  rw [hbyte.cfg_eq]
  obtain hsum | hs := hbyte.summing_or_readingChecksum0 hframe hframe'
  · have hbefore := hbyte.offset_le_of_summing hsum
    have hbefore' : s.offset ≤ 8 + s.cnt.toNat := State.offset_le_of_ne fun h1 => by
      rw [h1] at hsum
      cases hsum
    rw [List.take_of_length_le (by omega)] at hacc
    rw [List.take_of_length_le (by rw [List.length_append, List.length_singleton]; omega), hbyte.acc_toNat hinv hsum, hacc]
    simp [Nat.add_assoc]
  · have hcnt : t.cnt = s.cnt := (hbyte.cnt_of_inFrame hframe).trans (if_neg (by rw [hs]; decide))
    have hkept : t.acc = s.acc := (hbyte.acc_of_inFrame hframe).trans (if_neg (by rw [hs]; decide))
    rw [State.offset_of_readingChecksum0 hs] at hlen
    rw [hkept, hcnt, hacc, List.take_append_of_le_length (by omega)]

/-- Each byte that stays in the frame goes to its own place. -/
theorem State.Received.concat : t.Received (h ++ [b]) := by
  have hw := hbyte.writes
  exact
    { count := by
        have hlen := hrec.offset_eq hframe
        have hnext := hbyte.offset_of_inFrame hinv.counts hframe'
        rw [State.offset_eq_heardCount hframe'] at hnext
        rw [List.length_append, List.length_singleton]
        omega
      acc := hrec.acc_concat hframe hbyte hinv hframe'
      lenLo := hrec.header_concat hframe rfl (by decide) hrec.lenLo hw.lenLo
      lenHi := hrec.header_concat hframe rfl (by decide) hrec.lenHi hw.lenHi
      idLo := hrec.header_concat hframe rfl (by decide) hrec.idLo hw.idLo
      idHi := hrec.header_concat hframe rfl (by decide) hrec.idHi hw.idHi
      src := hrec.header_concat hframe rfl (by decide) hrec.src hw.src
      dst := hrec.header_concat hframe rfl (by decide) hrec.dst hw.dst
      payload := hrec.payload_concat hframe hbyte hinv
      ckLo := hrec.ckLo_concat hframe hbyte hinv hframe' }

end

/-- SYNC.HIT, the one way into a frame, begins the history with no byte (R81). -/
theorem ByteStep.received_nil {b : Byte} {s t : State} (h : ByteStep b s t) (hs : ParserState.inFrame s.st = false)
    (ht : ParserState.inFrame t.st = true) : t.Received [] := by
  cases h with
  | seekMiss | seekHit | syncMiss | dstDrop | ckOk | ckBad => cases ht
  | syncHit =>
    exact ⟨rfl, ckSeed_toNat s.cfg, nofun, nofun, nofun, nofun, nofun, nofun, fun _ _ _ => nofun, nofun⟩
  | lenLo hs' | lenHi hs' | idLo hs' | idHi hs' | src hs' | dstZero hs' | dstPay hs' | payMore hs' | payLast hs'
  | ckLo hs' => rw [hs'] at hs; cases hs

/-- Settles O55: RESET leaves the frame, IDLE keeps all, SYNC.HIT begins the history, and every other byte lengthens it. -/
theorem receivedBytesAreHeld : Obligations.ReceivedBytesAreHeld := by
  intro s t h hinv hrec hstep hframe'
  obtain ⟨-, rfl⟩ | ⟨hr, hv, rfl⟩ | ⟨hr, hv, hbyte⟩ := step_cases hstep
  · cases hframe'
  · have hheard : s.heardNext h = h := by simp [State.heardNext, hr, hv]
    rw [hheard]
    obtain ⟨count, acc, lenLo, lenHi, idLo, idHi, src, dst, payload, ckLo⟩ := hrec hframe'
    exact ⟨count, acc, lenLo, lenHi, idLo, idHi, src, dst, payload, ckLo⟩
  · cases hframe : ParserState.inFrame s.st with
    | false =>
      have hheard : s.heardNext h = [] := by simp [State.heardNext, hr, hv, hframe]
      rw [hheard]
      exact hbyte.received_nil hframe hframe'
    | true =>
      have hheard : s.heardNext h = h ++ [s.pins.inData] := by simp [State.heardNext, hr, hv, hframe]
      rw [hheard]
      obtain ⟨count, acc, lenLo, lenHi, idLo, idHi, src, dst, payload, ckLo⟩ := hrec hframe
      have hrec' : s.advance.Received h := ⟨count, acc, lenLo, lenHi, idLo, idHi, src, dst, payload, ckLo⟩
      exact hrec'.concat hframe hbyte hinv.advance hframe'

end Sys2Proof.Machine
end

section
/-! SUPPORT. Two states that agree on what the frame in progress has written stay so on any pins, and emit the same (R28 items d
and f, R29, R30). -/

namespace Sys2Proof.Machine

/-- In `Seeking` the frame in progress has written nothing. -/
theorem State.sameFrame_of_seeking {s t : State} (hs : s.st = .seeking) (ht : t.st = .seeking) (hcfg : s.cfg = t.cfg) :
    s.SameFrame t := by
  refine ⟨hcfg, hs.trans ht.symm, ?_⟩
  rw [hs]
  trivial

theorem samePay_of_eq_zero {s t : State} {n : Nat} (h : n = 0) : samePay s t n := fun _ ha =>
  absurd ha (h ▸ Nat.not_lt_zero _)

/-- The same byte stored at the same index extends the cells that agree by one. -/
theorem samePay_write_succ {s t : State} (hs : s.pay.wf = true) (ht : t.pay.wf = true) (hcnt : s.cnt = t.cnt)
    (hc : s.cnt.toNat < maxPayload) (h : samePay s t s.cnt.toNat) (b : Byte) (a : Nat) (ha : a < (s.cnt + 1).toNat) :
    (s.pay.write s.cnt.toNat b).read a = (t.pay.write t.cnt.toNat b).read a := by
  rw [cnt_succ_toNat hc] at ha
  rw [Memory.read_write hs, Memory.read_write ht, ← hcnt]
  by_cases hcell : a = s.cnt.toNat
  · rw [if_pos hcell, if_pos hcell]
  · rw [if_neg hcell, if_neg hcell]
    exact h a (by omega)

theorem readList_of_samePay {s t : State} {n : Nat} (h : samePay s t n) : s.pay.readList n = t.pay.readList n :=
  List.map_congr_left fun a ha => h a (List.mem_range.mp ha)

theorem withHighByte_congr {v w : Word16} (h : lowByte v = lowByte w) (b : Byte) : withHighByte v b = withHighByte w b := by
  rw [withHighByte, withHighByte, h]

theorem State.rx_congr {s t : State} (h : lowByte s.rxck = lowByte t.rxck) (b : Byte) : s.rx b = t.rx b := by
  rw [State.rx, State.rx, h]

/-- The simulation: a byte performs the same operation in both states, and what it writes is the same. -/
theorem State.SameFrame.byteStep {b : Byte} {s s' t : State} (hsame : s.SameFrame t) (h : ByteStep b s s') (hs : s.Inv)
    (ht : t.Inv) : ∃ t', ByteStep b t t' ∧ s'.SameFrame t' ∧ s'.event = t'.event := by
  obtain ⟨hcfg, hst, hregs⟩ := hsame
  cases h with
  | seekMiss h hb => exact ⟨_, .seekMiss (hst.symm.trans h) (hcfg ▸ hb), ⟨hcfg, rfl, trivial⟩, rfl⟩
  | seekHit h hb => exact ⟨_, .seekHit (hst.symm.trans h) (hcfg ▸ hb), ⟨hcfg, rfl, trivial⟩, rfl⟩
  | syncHit h hb =>
    exact ⟨_, .syncHit (hst.symm.trans h) (hcfg ▸ hb), ⟨hcfg, rfl, congrArg ckSeed hcfg, rfl⟩, rfl⟩
  | syncMiss h hb => exact ⟨_, .syncMiss (hst.symm.trans h) (hcfg ▸ hb), ⟨hcfg, rfl, trivial⟩, rfl⟩
  | lenLo h =>
    simp only [h] at hregs
    obtain ⟨hacc, hcnt⟩ := hregs
    exact ⟨_, .lenLo (hst.symm.trans h), ⟨hcfg, rfl, by rw [hacc], hcnt, by simp⟩, rfl⟩
  | lenHi h =>
    simp only [h] at hregs
    obtain ⟨hacc, hcnt, hlen⟩ := hregs
    exact ⟨_, .lenHi (hst.symm.trans h), ⟨hcfg, rfl, by rw [hacc], hcnt, withHighByte_congr hlen b⟩, rfl⟩
  | idLo h =>
    simp only [h] at hregs
    obtain ⟨hacc, hcnt, hlen⟩ := hregs
    exact ⟨_, .idLo (hst.symm.trans h), ⟨hcfg, rfl, by rw [hacc], hcnt, hlen, by simp⟩, rfl⟩
  | idHi h =>
    simp only [h] at hregs
    obtain ⟨hacc, hcnt, hlen, hmsgid⟩ := hregs
    exact ⟨_, .idHi (hst.symm.trans h), ⟨hcfg, rfl, by rw [hacc], hcnt, hlen, withHighByte_congr hmsgid b⟩, rfl⟩
  | src h =>
    simp only [h] at hregs
    obtain ⟨hacc, hcnt, hlen, hmsgid⟩ := hregs
    exact ⟨_, .src (hst.symm.trans h), ⟨hcfg, rfl, by rw [hacc], hcnt, hlen, hmsgid, rfl⟩, rfl⟩
  | dstDrop h hgt =>
    simp only [h] at hregs
    obtain ⟨-, -, hlen, -⟩ := hregs
    exact ⟨_, .dstDrop (hst.symm.trans h) (hlen ▸ hgt), ⟨hcfg, rfl, trivial⟩, rfl⟩
  | dstZero h h0 =>
    simp only [h] at hregs
    obtain ⟨hacc, hcnt, hlen, hmsgid, hsrc⟩ := hregs
    have hempty := State.cnt_of_readingDestination h hs.counts
    exact ⟨_, .dstZero (hst.symm.trans h) (hlen ▸ h0), ⟨hcfg, rfl, by rw [hacc], hcnt, hlen, hmsgid, hsrc, rfl,
      samePay_of_eq_zero hempty⟩, rfl⟩
  | dstPay h hpos hmax =>
    simp only [h] at hregs
    obtain ⟨hacc, hcnt, hlen, hmsgid, hsrc⟩ := hregs
    have hempty := State.cnt_of_readingDestination h hs.counts
    exact ⟨_, .dstPay (hst.symm.trans h) (hlen ▸ hpos) (hlen ▸ hmax), ⟨hcfg, rfl, by rw [hacc], hcnt, hlen, hmsgid, hsrc,
      rfl, samePay_of_eq_zero hempty⟩, rfl⟩
  | payMore h hc hlt =>
    simp only [h] at hregs
    obtain ⟨hacc, hcnt, hlen, hmsgid, hsrc, hdst, hpay⟩ := hregs
    exact ⟨_, .payMore (hst.symm.trans h) (hcnt ▸ hc) (hcnt ▸ hlen ▸ hlt), ⟨hcfg, rfl, by rw [hacc], by rw [hcnt], hlen,
      hmsgid, hsrc, hdst, samePay_write_succ hs.payWf ht.payWf hcnt hc hpay b⟩, rfl⟩
  | payLast h hc heq =>
    simp only [h] at hregs
    obtain ⟨hacc, hcnt, hlen, hmsgid, hsrc, hdst, hpay⟩ := hregs
    exact ⟨_, .payLast (hst.symm.trans h) (hcnt ▸ hc) (hcnt ▸ hlen ▸ heq), ⟨hcfg, rfl, by rw [hacc], by rw [hcnt], hlen,
      hmsgid, hsrc, hdst, samePay_write_succ hs.payWf ht.payWf hcnt hc hpay b⟩, rfl⟩
  | ckLo h =>
    simp only [h] at hregs
    obtain ⟨hacc, hcnt, hlen, hmsgid, hsrc, hdst, hpay⟩ := hregs
    exact ⟨_, .ckLo (hst.symm.trans h), ⟨hcfg, rfl, hacc, hcnt, hlen, hmsgid, hsrc, hdst, hpay, by simp⟩, rfl⟩
  | ckOk h hmax hrx =>
    simp only [h] at hregs
    obtain ⟨hacc, hcnt, hlen, hmsgid, hsrc, hdst, hpay, hck⟩ := hregs
    obtain ⟨-, hfull⟩ := (State.countsOk_of_readingChecksum1 h).mp hs.counts
    have hrx' := State.rx_congr hck b
    have hlist := readList_of_samePay hpay
    refine ⟨_, .ckOk (hst.symm.trans h) (hlen ▸ hmax) (hrx' ▸ hacc ▸ hrx), ⟨hcfg, rfl, trivial⟩, ?_⟩
    simp only [State.snapshot, hrx', ← hlen, hmsgid, hsrc, hdst, ← hfull, hlist]
  | ckBad h hrx =>
    simp only [h] at hregs
    obtain ⟨hacc, hcnt, hlen, hmsgid, hsrc, hdst, hpay, hck⟩ := hregs
    exact ⟨_, .ckBad (hst.symm.trans h) (State.rx_congr hck b ▸ hacc ▸ hrx), ⟨hcfg, rfl, trivial⟩, by rw [hsrc]⟩

/-- The same pins: RESET takes both states to `Seeking`, IDLE leaves them, and a byte is simulated. -/
theorem State.SameFrame.exists_step {s t : State} (hsame : s.SameFrame t) (hs : s.Inv) (ht : t.Inv) (p : Pins) :
    ∃ s' t', step (s.offered p) = .next s' ∧ step (t.offered p) = .next t' ∧
      s'.SameFrame t' ∧ s'.event = t'.event := by
  cases hr : p.rst with
  | true => exact ⟨_, _, step_of_rst hr, step_of_rst hr, State.sameFrame_of_seeking rfl rfl hsame.1, rfl⟩
  | false =>
    cases hv : p.inValid with
    | false => exact ⟨_, _, step_of_no_byte hr hv, step_of_no_byte hr hv, hsame, rfl⟩
    | true =>
      obtain ⟨s', hs'⟩ := exists_byteStep hs.counts p.inData
      obtain ⟨t', ht', hsame', hevent⟩ := hsame.byteStep hs' hs ht
      exact ⟨s', t', (step_of_byte (s := s.offered p) hr hv).trans (step_of_byteStep hs'),
        (step_of_byte (s := t.offered p) hr hv).trans (step_of_byteStep ht'), hsame', hevent⟩

/-- Runs of two such states on the same pins give the same events, by induction on the pins. -/
theorem State.SameFrame.exists_runPins : ∀ (ps : List Pins) {s t : State}, s.SameFrame t → s.Inv → t.Inv →
    ∃ s' t' es, runPins s ps = .next (s', es) ∧ runPins t ps = .next (t', es) ∧
      s'.SameFrame t' ∧ s'.Inv ∧ t'.Inv
  | [], s, t, hsame, hs, ht => ⟨s, t, [], rfl, rfl, hsame, hs, ht⟩
  | p :: ps, s, t, hsame, hs, ht => by
    obtain ⟨u, v, hu, hv, huv, hevent⟩ := hsame.exists_step hs ht p
    obtain ⟨s', t', es, hrun, hrun', hsame', hs', ht'⟩ := State.SameFrame.exists_runPins ps huv
      (stepKeepsTheInvariants _ _ (hs.offered p) hu) (stepKeepsTheInvariants _ _ (ht.offered p) hv)
    refine ⟨s', t', _, runPins_cons_next hu hrun, ?_, hsame', hs', ht'⟩
    rw [hevent]
    exact runPins_cons_next hv hrun'

/-- Settles O41: in `Seeking` nothing has been written, so that two states with the same markers agree on it. -/
theorem unspecifiedRegistersAreNeverObserved : Obligations.UnspecifiedRegistersAreNeverObserved := by
  intro s t ps hs ht hseek hseek' hcfg
  obtain ⟨s', t', es, hrun, hrun', ⟨-, hst, -⟩, hinv, hinv'⟩ :=
    (State.sameFrame_of_seeking hseek hseek' hcfg).exists_runPins ps hs ht
  exact ⟨s', t', es, hrun, hrun', hst, hinv, hinv'⟩

end Sys2Proof.Machine
end
